-- ==== Sys2Proof/Word.lean ====
section
/-! DEFINITION. The word types of the hardware (R9, R100): bytes, 7-bit device addresses, 40-bit command words. -/

namespace Sys2Proof

/-- A byte is 8 bits (R9). Register addresses, data, masks, pin identifiers and BUF cells are bytes. -/
abbrev Byte := BitVec 8

/-- A 7-bit device address (R34, R76). -/
abbrev DevAddr := BitVec 7

/-- A command word of the single format CMD40: 40 bits (R100). -/
abbrev CmdWord := BitVec 40

end Sys2Proof
end

