-- ==== Sys2Proof/Config.lean ====
section
/-! DEFINITION. What an implementation fixes (the parameters of R8, as plain data that State carries unchanged) and the
free values the spec leaves open (opaque constants with no body: nothing in Lean can prove a value of one). -/

namespace Sys2Proof

/-- The device's answer to an address byte or to a written byte (R78). -/
inductive Ack where
  | ack
  | nack
  | abort
  deriving DecidableEq, Repr, Inhabited

/-- The device's answer to a read byte (R78). -/
inductive ReadAns where
  | byte (v : Byte)
  | abort
  deriving DecidableEq, Repr, Inhabited

/-- A register map entry: (7-bit device address, 8-bit register address, bit-mask, bit-shift) (R13, R251). -/
structure RMapEntry where
  dev   : DevAddr
  reg   : Byte
  mask  : Byte
  shift : Nat
  deriving DecidableEq, Repr, Inhabited

/-- The parameter RMAP: eight entries, one per field the document names (R8, R251). -/
structure RMap where
  buckVout   : RMapEntry
  buckbstVout : RMapEntry
  buckbstEn  : RMapEntry
  buckDischg : RMapEntry
  vbusIlim   : RMapEntry
  chgCurrent : RMapEntry
  ocChg      : RMapEntry
  chgEn      : RMapEntry
  deriving DecidableEq, Repr, Inhabited

/-- The implementation parameters of R8. The device oracle DEV is `Device` of Machine/State.lean, beside its state. -/
structure Params where
  /-- POLL_LIMIT: bound on poll iterations, `none` is "no timeout" (R8, R234). -/
  pollLimit   : Option Nat
  /-- ID_CHECK: does `new` assert the two identity registers (R8, R253). -/
  idCheck     : Bool
  regIdMfg    : Byte
  regIdRev    : Byte
  idMfgValue  : Byte
  idRevValue  : Byte
  /-- PMIC_ADDR: the only device the surrounding software addresses (R8, R76). -/
  pmicAddr    : DevAddr
  /-- PIN_COUNT: number of legal pin identifiers (R8, R101). -/
  pinCount    : Nat
  pinSclFixed : Byte
  pinSdaFixed : Byte
  /-- BUF_SIZE: bytes of internal buffer memory (R8, R37). -/
  bufSize     : Nat
  rmap        : RMap
  /-- CODE_1V8: a 6-bit code (R8). -/
  code1v8     : BitVec 6
  code3v3     : Byte
  deriving DecidableEq, Repr

/-! ### Free values (assumption log 3, 4, 9, 12) -/

/-- Which of several enabled agents moves, where the schedule of State says nothing (R12: any agent with an enabled
step may go next). Applied to State's counter of draws. DESIGN CHOICE, log 3. -/
opaque Config.freePick : Nat → Nat

/-- The unconstrained oracle's answer to the n-th question, asked of a device address as DevAddrAck or DevWriteByte (R78).
Log 4. -/
opaque Config.freeAck : Nat → DevAddr → Ack

/-- The unconstrained oracle's answer to the n-th question, asked of a device address as DevReadByte (R78). Log 4. -/
opaque Config.freeRead : Nat → DevAddr → ReadAns

/-- What a simulated device holds after a reset cut its transaction short (R320, U6: any value). Log 9. -/
opaque Config.freeDeviceByte : Nat → Byte

/-- The OPEN parameters of R8, which the spec gives no value. Log 12. -/
opaque Config.openIdCheck : Bool
opaque Config.openRegIdMfg : Byte
opaque Config.openRegIdRev : Byte
opaque Config.openPinScl : Byte
opaque Config.openPinSda : Byte
opaque Config.openRMap : RMap
opaque Config.openCode3v3 : Byte

end Sys2Proof
end

