-- ==== Sys2Proof/Syntax.lean ====
section
/-! DEFINITION. The five commands of the sequencer, one constructor per row of spec/opcode_table.json (R102, R103). -/

namespace Sys2Proof

/-- A command with its operands cut as R101 says. -/
inductive Instr where
  /-- ENABLE, `enable(clock_pin, data_pin, fast)` (R131). -/
  | enable (clockPin dataPin : Byte) (fast : Bool)
  /-- DISABLE, `disable()` (R132). -/
  | disable
  /-- REG_READ, `reg_read(device_addr, register_addr)` (R150). -/
  | regRead (dev : DevAddr) (reg : Byte)
  /-- REG_WRITE, `reg_write(device_addr, register_addr, data_byte)` (R151). -/
  | regWrite (dev : DevAddr) (reg data : Byte)
  /-- REG_WRITE_MASK, `reg_write_mask(device_addr, register_addr, mask, data)` (R152). -/
  | regWriteMask (dev : DevAddr) (reg mask data : Byte)
  deriving DecidableEq, Repr

end Sys2Proof
end

