-- ==== Sys2Proof/WellFormed.lean ====
section
/-! DEFINITION. Which commands, register maps and parameters are well formed, and the parameters at their defaults. -/

namespace Sys2Proof

/-- A legal command (R101, R103): pin identifiers are below PIN_COUNT. Every other operand is legal at every value of
its width; equal pins, a mask that is no run and data outside the mask are NOT rejected (R105). -/
def Instr.wf (pinCount : Nat) : Instr → Bool
  | .enable clockPin dataPin _ => decide (clockPin.toNat < pinCount) && decide (dataPin.toNat < pinCount)
  | .disable => true
  | .regRead _ _ => true
  | .regWrite _ _ _ => true
  | .regWriteMask _ _ _ _ => true

/-! ### Register maps (R251) -/

/-- The structural law of §8 on one entry (R251, T1): the mask is one contiguous run of set bits and `shift` is the index
of its lowest set bit. -/
def RMapEntry.lawful (e : RMapEntry) : Bool :=
  e.mask.getLsbD e.shift && decide (e.mask.toNat % 2 ^ e.shift = 0) &&
    decide ((e.mask.toNat / 2 ^ e.shift) &&& (e.mask.toNat / 2 ^ e.shift + 1) = 0)

/-- A single-bit entry (R251: the enable and discharge fields are one bit). -/
def RMapEntry.oneBit (e : RMapEntry) : Bool := e.lawful && decide (e.mask.toNat = 2 ^ e.shift)

/-- The entries of a register map, in the order of R251's table. -/
def RMap.entries (m : RMap) : List RMapEntry :=
  [m.buckVout, m.buckbstVout, m.buckbstEn, m.buckDischg, m.vbusIlim, m.chgCurrent, m.ocChg, m.chgEn]

/-- The lawful register maps (R251, U10): every entry is at the PMIC's device address (the table's 0x46 is the default of
the parameter PMIC_ADDR, R8; log 12) and obeys the structural law, single-bit fields where the table says "bit", fields wide
enough for the codes of §8. Entries may overlap in one register, as U10 has a model accept; `RMap.distinctRegs` is a
premise of its own. The block checks none of it (R105). -/
def RMap.lawful (pmicAddr : DevAddr) (m : RMap) : Bool :=
  m.entries.all (fun e => decide (e.dev = pmicAddr) && e.lawful) &&
    m.buckbstEn.oneBit && m.buckDischg.oneBit && m.chgEn.oneBit &&
    decide (m.buckVout.mask = 0x3F ∧ m.buckVout.shift = 0) &&
    decide (7 ≤ m.vbusIlim.mask.toNat / 2 ^ m.vbusIlim.shift) &&
    decide (31 ≤ m.chgCurrent.mask.toNat / 2 ^ m.chgCurrent.shift) &&
    decide (7 ≤ m.ocChg.mask.toNat / 2 ^ m.ocChg.shift)

/-- The eight register addresses are pairwise distinct, as R251 derives of the document's map from scenario C. -/
def RMap.distinctRegs (m : RMap) : Bool := decide (m.entries.map RMapEntry.reg).Nodup

/-- A lawful register map at device 0x46: what `RMap.default` is where the free value is no lawful map. Its addresses and
masks say nothing of any chip (log 12). -/
def RMap.someLawful : RMap :=
  { buckVout    := { dev := 0x46, reg := 0, mask := 0x3F, shift := 0 }
    buckbstVout := { dev := 0x46, reg := 1, mask := 0xFF, shift := 0 }
    buckbstEn   := { dev := 0x46, reg := 2, mask := 0x01, shift := 0 }
    buckDischg  := { dev := 0x46, reg := 3, mask := 0x01, shift := 0 }
    vbusIlim    := { dev := 0x46, reg := 4, mask := 0xFF, shift := 0 }
    chgCurrent  := { dev := 0x46, reg := 5, mask := 0xFF, shift := 0 }
    ocChg       := { dev := 0x46, reg := 6, mask := 0xFF, shift := 0 }
    chgEn       := { dev := 0x46, reg := 7, mask := 0x01, shift := 0 } }

/-- The register map as far as the document settles it (R251): a free value that ranges over exactly the lawful maps at
device 0x46. Log 12. -/
def RMap.default : RMap :=
  if Config.openRMap.lawful 0x46 then Config.openRMap else RMap.someLawful

/-! ### Parameters (R8) -/

/-- Legal parameters (R8, R234, R251, U10): PIN_COUNT is 1 to 256 and the fixed pins are legal, a POLL_LIMIT is at least 1,
BUF holds the three bytes the sequencer's fixed layout uses (R37; the lower bound is DEDUCED, log 10), and RMAP is lawful. -/
def Params.wf (p : Params) : Bool :=
  decide (1 ≤ p.pinCount) && decide (p.pinCount ≤ 256) && decide (p.pinSclFixed.toNat < p.pinCount) &&
    decide (p.pinSdaFixed.toNat < p.pinCount) && decide (p.pollLimit ≠ some 0) && decide (3 ≤ p.bufSize) &&
    p.rmap.lawful p.pmicAddr

/-- The parameters at the defaults of R8; the ones R8 calls OPEN are free values. -/
def Params.default : Params :=
  { pollLimit   := none
    idCheck     := Config.openIdCheck
    regIdMfg    := Config.openRegIdMfg
    regIdRev    := Config.openRegIdRev
    idMfgValue  := 0x10
    idRevValue  := 0x08
    pmicAddr    := 0x46
    pinCount    := 256
    pinSclFixed := Config.openPinScl
    pinSdaFixed := Config.openPinSda
    bufSize     := 4
    rmap        := RMap.default
    code1v8     := 0x18
    code3v3     := Config.openCode3v3 }

end Sys2Proof
end

