-- ==== Sys2Proof/Machine/State.lean ====
section
/-! DEFINITION. The machine's state as plain data, grouped as R20 groups it, the reasons a step stops, and the state
right after reset (R44). -/

namespace Sys2Proof.Machine

/-! ### Sequencer state (R21 to R26) -/

/-- The phases held by `pc` (R22). -/
inductive Phase where
  | idle | setup | trigger | poll | check | clear | complete | fatal
  deriving DecidableEq, Repr

/-- The transfer selector `XFER` (R23). -/
inductive Xfer where
  | rd | wr
  deriving DecidableEq, Repr

/-- The cause codes of `CAUSE` (R281). Codes 5 to 7 are reserved and never written, so they have no constructor (U11). -/
inductive Cause where
  | none | countMismatchRd | countMismatchWr | pollTimeout | illegalCommand
  deriving DecidableEq, Repr

/-- The sequencer (R20 group 1). -/
structure SeqState where
  /-- `OP`: opcode of the command in progress. -/
  op        : Byte
  /-- `DEV`: the command's `device_addr`. -/
  dev       : DevAddr
  /-- `REG`: the command's `register_addr`. -/
  reg       : Byte
  /-- `MASK`: the command's `mask`. -/
  mask      : Byte
  /-- `DATA`: the command's `data_byte` / `data`. -/
  data      : Byte
  /-- `TMP`: the byte the last read transfer returned. -/
  tmp       : Byte
  /-- `pc`: the phase whose step has not yet been taken (R22). -/
  pc        : Phase
  /-- `XFER` (R23). -/
  xfer      : Xfer
  /-- `POLLCNT` (R24); untouched while POLL_LIMIT is `none`. -/
  pollCnt   : Nat
  /-- `FAULT` (R25). -/
  fault     : Bool
  /-- `CAUSE` (R25, R281). -/
  cause     : Cause
  /-- `RESP_VALID` (R26). -/
  respValid : Bool
  /-- `RESP_DATA` (R26). -/
  respData  : Byte
  /-- The response events `Resp(d)` since reset, oldest first: a record of the run that no rule reads (R26, R130). -/
  resps     : List Byte
  deriving DecidableEq, Repr

/-! ### Controller register file (R27 to R36) -/

/-- The sixteen registers of CR but `TASKS_STARTTX`, which holds no state and reads as 0 (R28). -/
structure CtrlRegs where
  eventsTxDone  : Bool
  eventsRxDone  : Bool
  eventsStopped : Bool
  shorts        : BitVec 3
  enable        : Bool
  pselScl       : BitVec 9
  pselSda       : BitVec 9
  frequency     : Bool
  address       : DevAddr
  txdPtr        : Byte
  txdMaxcnt     : Byte
  txdAmount     : Byte
  rxdPtr        : Byte
  rxdMaxcnt     : Byte
  rxdAmount     : Byte
  deriving DecidableEq, Repr

/-! ### Memory -/

/-- Byte-addressed memory: (address, byte) pairs in one canonical form (Machine/Ops.lean, `Memory.wf`). -/
abbrev Memory := List Host.Cell

/-! ### Engine state (R38, R39) -/

/-- The engine phase `ENG` (R38). -/
inductive EngPhase where
  | idle | txAddr | txData | rxAddr | rxData | stopping | stalled
  deriving DecidableEq, Repr

/-- An acknowledge bit on the wire (R39): `A` or `N`. -/
inductive AckBit where
  | a | n
  deriving DecidableEq, Repr

/-- The alphabet of `WIRE` (R39): `S`, `Sr`, `P`, `W(b, k)`, `R(b, k)`. -/
inductive Sym where
  | start
  | repStart
  | stop
  | sent (b : Byte) (k : AckBit)
  | got (b : Byte) (k : AckBit)
  deriving DecidableEq, Repr

/-! ### State outside the block (R40, R41, R43) -/

/-- An answer placed on a numbered question of the run (spec/95_test_vectors.md 1.2, "SIMDEV(store; qk = X)"). -/
inductive Answer where
  | ack
  | nack
  | abort
  | byte (v : Byte)
  deriving DecidableEq, Repr

/-- An answer placed on a numbered question of the run: the MODEL's own input (log 4). -/
structure Placed where
  /-- The question's number in the run, counted from 1. -/
  question : Nat
  /-- The device address the question must be asked of; `none` is whichever it is (spec/95_test_vectors.md 1.2). -/
  dev      : Option DevAddr
  answer   : Answer
  deriving DecidableEq, Repr

/-- The parameter DEV (R8): the unconstrained oracle of R78, or the simulated device of R80. -/
inductive DeviceKind where
  | oracle
  | simdev
  deriving DecidableEq, Repr

/-- The target device (R40). -/
structure Device where
  kind     : DeviceKind
  /-- SIM_ADDR (R80). -/
  simAddr  : DevAddr
  /-- SIM_PTR (R40, R80). -/
  simPtr   : Byte
  /-- SIM_STORE, 256 bytes; an unlisted byte is 0x00 (R40, R80). -/
  simStore : Memory
  /-- SIM_RSVD, the reserved-bit masks; an unlisted one is 0x00, R80's default. -/
  simRsvd  : Memory
  /-- How many questions the engine has asked so far: the MODEL's own counter, not the spec's (log 4). -/
  asked    : Nat
  /-- The placed answers, the first that applies counting: the MODEL's own input (log 4). -/
  inject   : List Placed
  deriving DecidableEq, Repr

/-- The ownership ghost `OWNER` (R41). -/
inductive Owner where
  | caller | layer
  deriving DecidableEq, Repr

/-- The PMIC Configuration Layer's own state machine (R263); `absent` is "before `new`". -/
inductive LayerState where
  | absent | configuring | released
  deriving DecidableEq, Repr

/-- What the host program does next (R7, R250, R299). -/
inductive HostAct where
  /-- Present a command word, legal or not, and wait for its response (R130). -/
  | present (w : CmdWord)
  /-- Compare the last response with a constant; the host halts fatally where they differ (R253, R286). -/
  | expect (v : Byte)
  /-- Move the bus handle (R253, R254, R293). -/
  | setOwner (o : Owner)
  /-- Move the layer's state machine (R253, R254, R263). -/
  | setLayer (l : LayerState)
  deriving DecidableEq, Repr

/-- The agent HOST (R7). -/
structure HostState where
  /-- The host program still to run, oldest act first. -/
  todo     : List HostAct
  /-- Has HOST presented a word whose response it has not taken (R130: it then waits). -/
  awaiting : Bool
  /-- The response HOST took last. -/
  lastResp : Byte
  /-- The host's own fatal halt (R286). -/
  halted   : Bool
  owner    : Owner
  layer    : LayerState
  deriving DecidableEq, Repr

/-! ### Scheduling (R12) -/

/-- The agents that take steps (R7); DEV takes none of its own. -/
inductive Agent where
  | host | seq | eng
  deriving DecidableEq, Repr

/-- One entry of the schedule: an agent's turn, or the reset event applied from outside (R320). -/
inductive Turn where
  | agent (a : Agent)
  | reset
  deriving DecidableEq, Repr

/-- Who moves next: the MODEL's own fields (log 3). -/
structure Env where
  /-- The turns the outside has settled, next one first. -/
  sched : List Turn
  /-- How many free values have been drawn. -/
  draws : Nat
  deriving DecidableEq, Repr

/-- The machine. -/
structure State where
  seq  : SeqState
  cr   : CtrlRegs
  /-- BUF (R37); a byte nothing has written since reset is not listed (R77). -/
  buf  : Memory
  /-- `ENG` (R38). -/
  eng  : EngPhase
  /-- `WIRE`, oldest first (R39). -/
  wire : List Sym
  /-- The command port: the word HOST presents now (R70, R130). -/
  port : Option CmdWord
  dev  : Device
  host : HostState
  env  : Env
  /-- The parameters of R8; no step changes them. -/
  par  : Params
  deriving DecidableEq, Repr

/-! ### Why a step stops -/

/-- Faults of the model. -/
inductive Fault where
  /-- Raised by a BUF read of a byte that nothing has written since reset (R77). Safe: the machine stops where the hardware
  never goes (R42). -/
  | bufUnwritten (addr : Nat)
  deriving DecidableEq, Repr

/-- Refusals: situations to which the spec gives no meaning, "refuse" in the sense of R11. Each is safe. -/
inductive Refusal where
  /-- Raised by an arm of `exec` whose command has no meaning yet; no arm is left that raises it. -/
  | notModelled (mnemonic : String)
  /-- Raised by ENABLE with `clock_pin` = `data_pin` (R105, R131 corner case (b), U3). -/
  | equalPins
  /-- Raised by a trigger while ENABLE = 1 and the engine is not IDLE (R191, D14). -/
  | triggerDuringTransaction
  /-- Raised by E-LASTTX with both transmit-done links set (R194, R204, U12). -/
  | bothTxDoneLinks
  /-- Raised by a BUF access outside 0 to BUF_SIZE - 1 (R74, R207, U13). -/
  | bufOutOfRange (addr : Nat)
  /-- Raised by a CR write of 1 to an event flag (R29, U13). -/
  | eventFlagWriteOne
  /-- Raised by a CR write to `TXD_AMOUNT` or `RXD_AMOUNT` (R71, U13). -/
  | readOnlyCounter
  /-- Raised by a CR access at an index 0x10 to 0xFF (R27). -/
  | unimplementedIndex (index : Byte)
  /-- Raised by SETUP of a write or COMPLETE of a read whose `OP` is no opcode that leads there (R153, R159 name the
  only two values; log 8). -/
  | opcodeOutOfPlace
  /-- Raised by a simulated device asked about a payload byte whose index R80 gives no answer for (log 4). -/
  | simdevPayloadIndex (i : Nat)
  deriving DecidableEq, Repr

/-! ### Reset (R44, R321) -/

/-- The sequencer after reset. `OP` to `TMP`, `XFER` and `RESP_DATA` are unspecified by R44 and hold a value of the
model's choice: DESIGN CHOICE, log 1. -/
def SeqState.reset : SeqState :=
  { op := 0x00, dev := 0x00, reg := 0x00, mask := 0x00, data := 0x00, tmp := 0x00
    pc := .idle, xfer := .rd, pollCnt := 0, fault := false, cause := .none
    respValid := false, respData := 0x00, resps := [] }

/-- The controller registers after reset. The PIN fields, `FREQUENCY`, `ADDRESS`, the pointers and the MAXCNT registers
are unspecified by R44 and hold a value of the model's choice: DESIGN CHOICE, log 1. -/
def CtrlRegs.reset : CtrlRegs :=
  { eventsTxDone := false, eventsRxDone := false, eventsStopped := false, shorts := 0, enable := false
    pselScl := 0, pselSda := 0, frequency := false, address := 0
    txdPtr := 0, txdMaxcnt := 0, txdAmount := 0, rxdPtr := 0, rxdMaxcnt := 0, rxdAmount := 0 }

/-- The device a state starts with: the unconstrained oracle (R8's default of DEV). The simulated device's own state is
not reset by the block (R44); its values here are DESIGN CHOICE, log 2. -/
def Device.initial : Device :=
  { kind := .oracle, simAddr := 0x46, simPtr := 0x00, simStore := [], simRsvd := [], asked := 0, inject := [] }

/-- The host before it does anything: it has no program, and the caller holds the bus handle (R44: OWNER = CALLER). -/
def HostState.initial : HostState :=
  { todo := [], awaiting := false, lastResp := 0x00, halted := false, owner := .caller, layer := .absent }

/-- The machine right after reset (R44, R321), with nothing presented on the command port. -/
def State.reset : State :=
  { seq := SeqState.reset, cr := CtrlRegs.reset, buf := [], eng := .idle, wire := [], port := none
    dev := Device.initial, host := HostState.initial, env := { sched := [], draws := 0 }, par := Params.default }

end Sys2Proof.Machine
end

