-- ==== Sys2Proof/Machine/Ops.lean ====
section
/-! DEFINITION. The named operations over memory, registers and the response, and the fatal halt with the reset event,
the only way out of it. -/

namespace Sys2Proof.Machine

/-- What a meaning answers. -/
abbrev Res (α : Type) := Host.Outcome α Fault Refusal

/-- Go on with `f` where `o` answers a next value; stop as `o` stops. -/
def chain {α β : Type} (o : Res α) (f : α → Res β) : Res β :=
  match o with
  | .next a => f a
  | .fault r => .fault r
  | .refused r => .refused r

/-! ### Byte memories in canonical form -/

/-- The byte listed at an address. -/
def memLookup : Memory → Nat → Option Byte
  | [], _ => none
  | (k, v) :: m, a => if k = a then some v else memLookup m a

/-- List a byte at an address, keeping addresses rising. -/
def memInsert : Memory → Nat → Byte → Memory
  | [], a, v => [(a, v)]
  | (k, x) :: m, a, v =>
    if a < k then (a, v) :: (k, x) :: m
    else if a = k then (a, v) :: m
    else (k, x) :: memInsert m a v

/-- Unlist an address. -/
def memErase : Memory → Nat → Memory
  | [], _ => []
  | (k, x) :: m, a => if k = a then m else (k, x) :: memErase m a

/-- The byte a memory reads at an address; `unlisted` is what an unlisted address reads as. -/
def memRead (unlisted : Option Byte) (m : Memory) (a : Nat) : Option Byte :=
  match memLookup m a with
  | some v => some v
  | none => unlisted

/-- Write a byte: the value an unlisted address reads as is not listed. -/
def memWrite (unlisted : Option Byte) (m : Memory) (a : Nat) (v : Byte) : Memory :=
  if unlisted = some v then memErase m a else memInsert m a v

/-- Strictly rising addresses. -/
def memSorted : Memory → Bool
  | [] => true
  | [_] => true
  | (k, _) :: (k', x) :: m => decide (k < k') && memSorted ((k', x) :: m)

/-- The canonical form of a memory of `size` bytes: addresses strictly rising and below `size`, and no entry equal to
what an unlisted address reads as. -/
def Memory.wf (unlisted : Option Byte) (size : Nat) (m : Memory) : Bool :=
  memSorted m && m.all (fun c => decide (c.1 < size) && decide (unlisted ≠ some c.2))

/-- What an unlisted byte of BUF reads as: it has no value, and reading it faults the model (R77). -/
def bufUnlisted : Option Byte := none

/-- What an unlisted byte of SIM_STORE reads as: scenario B's "initialized to 0x00". DESIGN CHOICE, log 2. -/
def storeUnlisted : Option Byte := some 0x00

/-- What an unlisted mask of SIM_RSVD reads as: R80's "default all 0x00". -/
def rsvdUnlisted : Option Byte := some 0x00

/-! ### BUF primitives (R74, R77, R207) -/

/-- `MemRead(a, 1)[0]`. -/
def bufRead (a : Nat) (s : State) : Res Byte :=
  if a < s.par.bufSize then
    match memRead bufUnlisted s.buf a with
    | some v => .next v
    | none => .fault (.bufUnwritten a)
  else .refused (.bufOutOfRange a)

/-- `MemWrite(a, 1, [v])`. -/
def bufWrite (a : Nat) (v : Byte) (s : State) : Res State :=
  if a < s.par.bufSize then .next { s with buf := memWrite bufUnlisted s.buf a v }
  else .refused (.bufOutOfRange a)

/-- `MemRead(a, n)` (R77): `n` bytes, lowest address first. R77 gives no outcome for n = 0 at an address above BUF_SIZE, nor
says which stop wins where one byte is unwritten and a later one out of range; here n = 0 answers no byte at any address,
and the stop is the first stopping byte's: DESIGN CHOICE, log 25. -/
def bufReadList : Nat → Nat → State → Res (List Byte)
  | _, 0, _ => .next []
  | a, n + 1, s => chain (bufRead a s) fun v => chain (bufReadList (a + 1) n s) fun l => .next (v :: l)

/-- `MemWrite(a, n, v)` (R77): the byte list `v` at the same places. The empty list changes nothing at any address, and a
list that runs past BUF_SIZE is refused at its first byte out of range: DESIGN CHOICE, log 25. -/
def bufWriteList : Nat → List Byte → State → Res State
  | _, [], s => .next s
  | a, v :: l, s => chain (bufWrite a v s) fun s => bufWriteList (a + 1) l s

/-! ### The simulated device's store (R80) -/

/-- `SIM_STORE[r]`. -/
def storeByte (d : Device) (r : Byte) : Byte := (memRead storeUnlisted d.simStore r.toNat).getD 0x00

/-- `SIM_RSVD[r]`. -/
def rsvdByte (d : Device) (r : Byte) : Byte := (memRead rsvdUnlisted d.simRsvd r.toNat).getD 0x00

/-- `SIM_STORE[r] <- v`. -/
def storeWrite (r v : Byte) (d : Device) : Device :=
  { d with simStore := memWrite storeUnlisted d.simStore r.toNat v }

/-! ### Small updates -/

/-- `pc <- p`. -/
def setPc (p : Phase) (s : State) : State := { s with seq.pc := p }

/-- `ENG <- e`. -/
def setEng (e : EngPhase) (s : State) : State := { s with eng := e }

/-- `emit(x)`: append a symbol to WIRE (R10). -/
def emit (x : Sym) (s : State) : State := { s with wire := s.wire ++ [x] }

/-- `respond(d)`: deliver the response byte (R10, R26, R130) and record the event. -/
def respond (d : Byte) (s : State) : State :=
  { s with seq.respValid := true, seq.respData := d, seq.resps := s.seq.resps ++ [d] }

/-- The end of a command: `respond(d); pc <- IDLE`. -/
def endCommand (d : Byte) (s : State) : State := setPc .idle (respond d s)

/-! ### Controller register space (R27, R71) -/

/-- The register names of CR (R27). -/
inductive CReg where
  | tasksStartTx | eventsTxDone | eventsRxDone | eventsStopped | shorts | enable | pselScl | pselSda | frequency
  | address | txdPtr | txdMaxcnt | txdAmount | rxdPtr | rxdMaxcnt | rxdAmount
  deriving DecidableEq, Repr

/-- A register's 8-bit index (R27). -/
def CReg.index : CReg → Byte
  | .tasksStartTx => 0x00
  | .eventsTxDone => 0x01
  | .eventsRxDone => 0x02
  | .eventsStopped => 0x03
  | .shorts => 0x04
  | .enable => 0x05
  | .pselScl => 0x06
  | .pselSda => 0x07
  | .frequency => 0x08
  | .address => 0x09
  | .txdPtr => 0x0A
  | .txdMaxcnt => 0x0B
  | .txdAmount => 0x0C
  | .rxdPtr => 0x0D
  | .rxdMaxcnt => 0x0E
  | .rxdAmount => 0x0F

/-- A register's width (R27). -/
def CReg.width : CReg → Nat
  | .tasksStartTx => 1
  | .eventsTxDone => 1
  | .eventsRxDone => 1
  | .eventsStopped => 1
  | .shorts => 3
  | .enable => 1
  | .pselScl => 9
  | .pselSda => 9
  | .frequency => 1
  | .address => 7
  | .txdPtr => 8
  | .txdMaxcnt => 8
  | .txdAmount => 8
  | .rxdPtr => 8
  | .rxdMaxcnt => 8
  | .rxdAmount => 8

/-- Every register of CR. -/
def allCRegs : List CReg :=
  [.tasksStartTx, .eventsTxDone, .eventsRxDone, .eventsStopped, .shorts, .enable, .pselScl, .pselSda, .frequency,
    .address, .txdPtr, .txdMaxcnt, .txdAmount, .rxdPtr, .rxdMaxcnt, .rxdAmount]

/-- The register at an index; 0x10 to 0xFF are unimplemented (R27). -/
def regAtIndex (i : Byte) : Option CReg := allCRegs.find? (fun r => r.index == i)

/-- `x[NAME]`: a whole-register read with no side effect (R71). `TASKS_STARTTX` reads as 0 (R28). -/
def readCR (s : State) : (r : CReg) → BitVec r.width
  | .tasksStartTx => (0#1 : BitVec 1)
  | .eventsTxDone => BitVec.ofBool s.cr.eventsTxDone
  | .eventsRxDone => BitVec.ofBool s.cr.eventsRxDone
  | .eventsStopped => BitVec.ofBool s.cr.eventsStopped
  | .shorts => s.cr.shorts
  | .enable => BitVec.ofBool s.cr.enable
  | .pselScl => s.cr.pselScl
  | .pselSda => s.cr.pselSda
  | .frequency => BitVec.ofBool s.cr.frequency
  | .address => s.cr.address
  | .txdPtr => s.cr.txdPtr
  | .txdMaxcnt => s.cr.txdMaxcnt
  | .txdAmount => s.cr.txdAmount
  | .rxdPtr => s.cr.rxdPtr
  | .rxdMaxcnt => s.cr.rxdMaxcnt
  | .rxdAmount => s.cr.rxdAmount

/-- E-TRIGGER: what a write of 1 to `TASKS_STARTTX` asks of the engine (R191). -/
def engTrigger (s : State) : Res State :=
  if s.cr.enable then
    if s.eng = .idle then .next { s with cr.txdAmount := 0x00, cr.rxdAmount := 0x00, eng := .txAddr }
    else .refused .triggerDuringTransaction
  else .next s

/-- A one-bit value is 1. -/
def isOne (v : BitVec 1) : Bool := decide (v = 1#1)

/-- `x[NAME] <- v` by SEQ: a whole-register write, with a side effect only at `TASKS_STARTTX` (R28, R71). Writing 0 to an
event flag clears it; a write of 1 to one, and any write to a counter, is refused (R29, R71, U13). -/
def writeCR : (r : CReg) → BitVec r.width → State → Res State
  | .tasksStartTx, v, s => if isOne v then engTrigger s else .next s
  | .eventsTxDone, v, s =>
    if isOne v then .refused .eventFlagWriteOne else .next { s with cr.eventsTxDone := false }
  | .eventsRxDone, v, s =>
    if isOne v then .refused .eventFlagWriteOne else .next { s with cr.eventsRxDone := false }
  | .eventsStopped, v, s =>
    if isOne v then .refused .eventFlagWriteOne else .next { s with cr.eventsStopped := false }
  | .shorts, v, s => .next { s with cr.shorts := v }
  | .enable, v, s => .next { s with cr.enable := isOne v }
  | .pselScl, v, s => .next { s with cr.pselScl := v }
  | .pselSda, v, s => .next { s with cr.pselSda := v }
  | .frequency, v, s => .next { s with cr.frequency := isOne v }
  | .address, v, s => .next { s with cr.address := v }
  | .txdPtr, v, s => .next { s with cr.txdPtr := v }
  | .txdMaxcnt, v, s => .next { s with cr.txdMaxcnt := v }
  | .txdAmount, _, _ => .refused .readOnlyCounter
  | .rxdPtr, v, s => .next { s with cr.rxdPtr := v }
  | .rxdMaxcnt, v, s => .next { s with cr.rxdMaxcnt := v }
  | .rxdAmount, _, _ => .refused .readOnlyCounter

/-- A CR read by index, zero-extended to the widest register; no step performs one (R27, R134). -/
def readIndex (i : Byte) (s : State) : Res (BitVec 9) :=
  match regAtIndex i with
  | some r => .next ((readCR s r).setWidth 9)
  | none => .refused (.unimplementedIndex i)

/-- A CR write by index; no step performs one (R27, R134). -/
def writeIndex (i : Byte) (v : BitVec 9) (s : State) : Res State :=
  match regAtIndex i with
  | some r => writeCR r (v.setWidth r.width) s
  | none => .refused (.unimplementedIndex i)

/-! ### The fatal halt and the reset event -/

/-- `raise Fatal(c)`: the one fatal entry, shared by every step that raises (R11, R290). Nothing is saved, and control
goes to no handler. -/
def raiseFatal (c : Cause) (s : State) : State :=
  { s with seq.fault := true, seq.cause := c, seq.pc := .fatal }

/-- Does a reset cut short a transaction the simulated device has taken part in (U6)? -/
def resetCutsDevice (s : State) : Bool :=
  decide (s.eng ≠ .idle) && decide (s.dev.kind = .simdev) && decide (s.cr.address = s.dev.simAddr)

/-- The device across a reset: it is not reset (R320), but a device cut short in a transaction holds any value at its
pointer and, in a write that has sent the register address, at the byte being written (U6; log 9). -/
def deviceAfterReset (s : State) : Device :=
  if resetCutsDevice s then
    let d := if s.seq.xfer = .wr ∧ 0 < s.cr.txdAmount.toNat then
        storeWrite s.dev.simPtr (Config.freeDeviceByte s.env.draws) s.dev
      else s.dev
    { d with simPtr := Config.freeDeviceByte (s.env.draws + 1) }
  else s.dev

/-- The reset event (R320): every element of the block at its reset value. There is no return from the fatal halt, and
this is the only way out of it (R291). The host's program ends with it: after a fatal halt or a hang the remaining
operations and `release` never run (R263). HOST's part is the model's own convention, log 11. -/
def resetEvent (s : State) : State :=
  { s with
    seq := SeqState.reset
    cr := CtrlRegs.reset
    buf := []
    eng := .idle
    wire := []
    dev := deviceAfterReset s
    host := { s.host with todo := [], owner := .caller, awaiting := s.port.isSome, halted := false, layer := .absent }
    env := { s.env with draws := if resetCutsDevice s then s.env.draws + 2 else s.env.draws } }

end Sys2Proof.Machine
end

