-- ==== Sys2Proof/Machine/Device.lean ====
section
/-! DEFINITION. The device as an oracle: the three questions the engine asks (R78), the unconstrained oracle, and the
simulated device SIMDEV (R80). -/

namespace Sys2Proof.Machine

/-- Does a placed answer apply to question `q`, asked of device address `a`? -/
def Placed.applies (p : Placed) (q : Nat) (a : DevAddr) : Bool :=
  p.question == q && match p.dev with
    | none => true
    | some b => b == a

/-- The answer placed on a numbered question of the run, asked of a device address, if any. -/
def injected : List Placed → Nat → DevAddr → Option Answer
  | [], _, _ => none
  | p :: l, q, a => if p.applies q a then some p.answer else injected l q a

/-- A placed answer that fits an acknowledge question. -/
def injectedAck (d : Device) (q : Nat) (a : DevAddr) : Option Ack :=
  match injected d.inject q a with
  | some .ack => some .ack
  | some .nack => some .nack
  | some .abort => some .abort
  | some (.byte _) => none
  | none => none

/-- A placed answer that fits a read question. -/
def injectedRead (d : Device) (q : Nat) (a : DevAddr) : Option ReadAns :=
  match injected d.inject q a with
  | some (.byte v) => some (.byte v)
  | some .abort => some .abort
  | some .ack => none
  | some .nack => none
  | none => none

/-- Count one more question. -/
def countQuestion (d : Device) : Device := { d with asked := d.asked + 1 }

/-- SIMDEV's answer to `DevAddrAck(dev, rw)`: ACK if `dev` = SIM_ADDR, else NACK (R80). -/
def simAddrAck (a : DevAddr) (d : Device) : Ack := if a = d.simAddr then .ack else .nack

/-- SIMDEV at `DevWriteByte(dev, 0, b)`: `SIM_PTR <- b` (R80). -/
def simSetPtr (b : Byte) (d : Device) : Device := { d with simPtr := b }

/-- SIMDEV at `DevWriteByte(dev, 1, b)`: reserved bits keep their value (R80). -/
def simStoreByte (b : Byte) (d : Device) : Device :=
  storeWrite d.simPtr ((storeByte d d.simPtr &&& rsvdByte d d.simPtr) ||| (b &&& ~~~(rsvdByte d d.simPtr))) d

/-- `DevAddrAck(x[ADDRESS], rw)` (R78): the answer and the state after it. R80 reads no direction bit. -/
def devAddrAck (_rw : BitVec 1) (s : State) : Ack × State :=
  let d := countQuestion s.dev
  match injectedAck d d.asked s.cr.address with
  | some k => (k, { s with dev := d })
  | none =>
    match d.kind with
    | .oracle => (Config.freeAck d.asked s.cr.address, { s with dev := d })
    | .simdev => (simAddrAck s.cr.address d, { s with dev := d })

/-- `DevWriteByte(x[ADDRESS], i, b)` (R78): the answer and the state after it. A placed answer leaves the simulated
device as it is (spec/95_test_vectors.md 1.2). -/
def devWriteByte (i : Nat) (b : Byte) (s : State) : Res (Ack × State) :=
  let d := countQuestion s.dev
  match injectedAck d d.asked s.cr.address with
  | some k => .next (k, { s with dev := d })
  | none =>
    match d.kind with
    | .oracle => .next (Config.freeAck d.asked s.cr.address, { s with dev := d })
    | .simdev =>
      if i = 0 then .next (.ack, { s with dev := simSetPtr b d })
      else if i = 1 then .next (.ack, { s with dev := simStoreByte b d })
      else .refused (.simdevPayloadIndex i)

/-- `DevReadByte(x[ADDRESS], i)` (R78): the answer and the state after it. -/
def devReadByte (i : Nat) (s : State) : Res (ReadAns × State) :=
  let d := countQuestion s.dev
  match injectedRead d d.asked s.cr.address with
  | some r => .next (r, { s with dev := d })
  | none =>
    match d.kind with
    | .oracle => .next (Config.freeRead d.asked s.cr.address, { s with dev := d })
    | .simdev =>
      if i = 0 then .next (.byte (storeByte d d.simPtr), { s with dev := d })
      else .refused (.simdevPayloadIndex i)

/-- A device that is well-behaved for device address `a` (R79): whatever question comes from the next on, if it is asked of
`a` the device acknowledges the address and every written byte, and answers a read with some byte. Of a question asked of
another device address nothing is required. The simulated device does so of itself at its own address only (R80), so there
no placed answer may be anything else. -/
def Device.WellBehaved (d : Device) (a : DevAddr) : Prop :=
  match d.kind with
  | .simdev => d.simAddr = a ∧ ∀ q, d.asked < q →
      (injectedAck d q a).getD .ack = .ack ∧ injectedRead d q a ≠ some .abort
  | .oracle => ∀ q, d.asked < q →
      (injectedAck d q a).getD (Config.freeAck q a) = .ack ∧
        ∃ v, (injectedRead d q a).getD (Config.freeRead q a) = .byte v

end Sys2Proof.Machine
end

