-- ==== Sys2Proof/Machine/Flags.lean ====
section
/-! DEFINITION. Flags: the event flags, the shortcut bits, the host-visible outputs, the codes of the coded registers,
and the arbiter's verdict. -/

namespace Sys2Proof.Machine

/-! ### Host-visible outputs (R26) -/

/-- `BUSY` = 1 exactly when `pc` is neither IDLE nor FATAL. -/
def busy (s : State) : Bool := decide (s.seq.pc ≠ .idle) && decide (s.seq.pc ≠ .fatal)

/-- `FATAL_OUT` = `FAULT`. -/
def fatalOut (s : State) : Bool := s.seq.fault

/-! ### Codes -/

/-- The 3-bit code of `pc` (R22). -/
def Phase.code : Phase → BitVec 3
  | .idle => 0
  | .setup => 1
  | .trigger => 2
  | .poll => 3
  | .check => 4
  | .clear => 5
  | .complete => 6
  | .fatal => 7

/-- The 1-bit code of `XFER` (R23). -/
def Xfer.code : Xfer → BitVec 1
  | .rd => 0
  | .wr => 1

/-- The 3-bit code of `CAUSE` (R281). -/
def Cause.code : Cause → BitVec 3
  | .none => 0
  | .countMismatchRd => 1
  | .countMismatchWr => 2
  | .pollTimeout => 3
  | .illegalCommand => 4

/-! ### Event flags (R29) and shortcuts (R30) -/

/-- The engine generates transmit-done (R194). -/
def generateTxDone (s : State) : State := { s with cr.eventsTxDone := true }

/-- The engine generates receive-done (R197). -/
def generateRxDone (s : State) : State := { s with cr.eventsRxDone := true }

/-- The engine generates stopped (R198). -/
def generateStopped (s : State) : State := { s with cr.eventsStopped := true }

/-- All three event flags are 0. -/
def flagsClear (s : State) : Bool := !s.cr.eventsTxDone && !s.cr.eventsRxDone && !s.cr.eventsStopped

/-- `SHORTS` bit 0: transmit-done starts the read phase. -/
def txDoneStartRx (s : State) : Bool := s.cr.shorts.getLsbD 0

/-- `SHORTS` bit 1: receive-done issues the stop condition. -/
def rxDoneStop (s : State) : Bool := s.cr.shorts.getLsbD 1

/-- `SHORTS` bit 2: transmit-done issues the stop condition. -/
def txDoneStop (s : State) : Bool := s.cr.shorts.getLsbD 2

/-! ### The arbiter's verdict (R230) -/

inductive Verdict where
  | wait
  | fatal (c : Cause)
  | ok
  deriving DecidableEq, Repr

/-- The verdict function of R230. -/
def verdict (stopped : Bool) (txa rxa : Byte) (xfer : Xfer) : Verdict :=
  if stopped = false then .wait
  else if xfer = .rd ∧ (txa ≠ 1 ∨ rxa ≠ 1) then .fatal .countMismatchRd
  else if xfer = .wr ∧ txa ≠ 2 then .fatal .countMismatchWr
  else .ok

end Sys2Proof.Machine
end

