-- ==== Sys2Proof/Machine/Operands.lean ====
section
/-! DEFINITION. Operand forms: what the commands' operands turn into in the registers, in BUF and on the wire. -/

namespace Sys2Proof.Machine

/-- A bound pin select, `1 ++ pin`: BOUND = 1, PIN = pin (R32, R131). -/
def pselBound (pin : Byte) : BitVec 9 := 1#1 ++ pin

/-- The `BOUND` bit of a pin select (R32). -/
def pselIsBound (v : BitVec 9) : Bool := v.getLsbD 8

/-- The `PIN` field of a pin select (R32). -/
def pselPin (v : BitVec 9) : Byte := v.extractLsb' 0 8

/-- The first byte after a start condition, `ADDRESS ++ rw`, with `rw` = 0 for the write direction and 1 for the read
direction (R73). -/
def addressByte (dev : DevAddr) (rw : BitVec 1) : Byte := dev ++ rw

/-- The merge function `(old & ~mask) | (data & mask)` (R153). -/
def merge (old mask data : Byte) : Byte := (old &&& ~~~mask) ||| (data &&& mask)

/-- `WDATA`: DATA when OP = 0x04 and Merge(TMP, MASK, DATA) when OP = 0x05 (R153). -/
def wdata (q : SeqState) : Res Byte :=
  if q.op = 0x04 then .next q.data
  else if q.op = 0x05 then .next (merge q.tmp q.mask q.data)
  else .refused .opcodeOutOfPlace

/-- What ACCEPT latches for a transfer command: OP, DEV, REG, MASK, DATA, XFER, and `pc <- SETUP` (R130). -/
def latchTransfer (op : Byte) (dev : DevAddr) (reg mask data : Byte) (xfer : Xfer) (s : State) : State :=
  { s with seq.op := op, seq.dev := dev, seq.reg := reg, seq.mask := mask, seq.data := data, seq.xfer := xfer
           seq.pc := .setup }

end Sys2Proof.Machine
end

