-- ==== Sys2Proof/Machine/Engine.lean ====
section
/-! DEFINITION. The steps of agent ENG, the controller's transfer engine (R190 to R200). E-TRIGGER (R191) is part of the
write to TASKS_STARTTX and stands in Machine/Ops.lean. -/

namespace Sys2Proof.Machine

/-- E-TXADDR (R192). -/
def engTxAddr (s : State) : Res State :=
  let q := devAddrAck 0#1 (emit .start s)
  .next (match q.1 with
    | .ack => setEng .txData (emit (.sent (addressByte s.cr.address 0#1) .a) q.2)
    | .nack => setEng .stalled (emit (.sent (addressByte s.cr.address 0#1) .n) q.2)
    | .abort => setEng .stopping q.2)

/-- E-TXDATA (R193). -/
def engTxData (s : State) : Res State :=
  chain (bufRead (s.cr.txdPtr.toNat + s.cr.txdAmount.toNat) s) fun b =>
  chain (devWriteByte s.cr.txdAmount.toNat b s) fun q =>
  .next (match q.1 with
    | .ack => let t := emit (.sent b .a) q.2; { t with cr.txdAmount := s.cr.txdAmount + 1 }
    | .nack => setEng .stalled (emit (.sent b .n) q.2)
    | .abort => setEng .stopping q.2)

/-- E-LASTTX, completion of the transmit phase (R194, R204). -/
def engLastTx (s : State) : Res State :=
  match txDoneStartRx s, txDoneStop s with
  | true, false => .next (setEng .rxAddr (generateTxDone s))
  | false, true => .next (setEng .stopping (generateTxDone s))
  | false, false => .next (setEng .stalled (generateTxDone s))
  | true, true => .refused .bothTxDoneLinks

/-- E-RXADDR (R195). -/
def engRxAddr (s : State) : Res State :=
  let q := devAddrAck 1#1 (emit .repStart s)
  .next (match q.1 with
    | .ack => setEng .rxData (emit (.sent (addressByte s.cr.address 1#1) .a) q.2)
    | .nack => setEng .stalled (emit (.sent (addressByte s.cr.address 1#1) .n) q.2)
    | .abort => setEng .stopping q.2)

/-- The master's acknowledge bit on a received byte: N after the last one of the phase, A otherwise (R196, G2). -/
def masterAck (received maxcnt : Byte) : AckBit := if received = maxcnt then .n else .a

/-- E-RXDATA (R196). -/
def engRxData (s : State) : Res State :=
  chain (devReadByte s.cr.rxdAmount.toNat s) fun q =>
  match q.1 with
  | .byte v =>
    chain (bufWrite (s.cr.rxdPtr.toNat + s.cr.rxdAmount.toNat) v q.2) fun t =>
    let t := { t with cr.rxdAmount := s.cr.rxdAmount + 1 }
    .next (emit (.got v (masterAck (s.cr.rxdAmount + 1) s.cr.rxdMaxcnt)) t)
  | .abort => .next (setEng .stopping q.2)

/-- E-LASTRX, completion of the read phase (R197, R204). -/
def engLastRx (s : State) : Res State :=
  .next (setEng (if rxDoneStop s then .stopping else .stalled) (generateRxDone s))

/-- E-STOP (R198). -/
def engStop (s : State) : Res State :=
  .next (setEng .idle (generateStopped (emit .stop s)))

/-- Has the engine an enabled step? It steps only while ENABLE = 1; IDLE and STALLED have none (R190, R193, R194, R196,
R197, R199). -/
def engEnabled (s : State) : Bool :=
  s.cr.enable &&
    match s.eng with
    | .idle => false
    | .txAddr => true
    | .txData => decide (s.cr.txdAmount.toNat ≤ s.cr.txdMaxcnt.toNat)
    | .rxAddr => true
    | .rxData => decide (s.cr.rxdAmount.toNat ≤ s.cr.rxdMaxcnt.toNat)
    | .stopping => true
    | .stalled => false

/-- The engine's step, chosen by ENG (R190); where none is enabled, nothing changes. -/
def engStep (s : State) : Res State :=
  if engEnabled s then
    match s.eng with
    | .idle => .next s
    | .txAddr => engTxAddr s
    | .txData => if s.cr.txdAmount = s.cr.txdMaxcnt then engLastTx s else engTxData s
    | .rxAddr => engRxAddr s
    | .rxData => if s.cr.rxdAmount = s.cr.rxdMaxcnt then engLastRx s else engRxData s
    | .stopping => engStop s
    | .stalled => .next s
  else .next s

end Sys2Proof.Machine
end

