-- ==== Sys2Proof/Machine/HostAgent.lean ====
section
/-! DEFINITION. The steps of agent HOST (R7, R130, R250, R299): take a response, present a word, run the acts of a host
program. Log 5. -/

namespace Sys2Proof.Machine

/-- May HOST present a word? Only when BUSY = 0 and FATAL_OUT = 0, and not while it waits for a response (R130). -/
def mayPresent (s : State) : Bool := !busy s && !fatalOut s && !s.host.awaiting && s.port.isNone

/-- Has HOST an enabled step? It takes a valid response at once it moves; it waits while a response is due; a halted host
does nothing (R286). -/
def hostEnabled (s : State) : Bool :=
  !s.host.halted &&
    (s.seq.respValid ||
      match s.host.todo with
      | [] => false
      | .present _ :: _ => mayPresent s
      | .expect _ :: _ => !s.host.awaiting
      | .setOwner _ :: _ => !s.host.awaiting
      | .setLayer _ :: _ => !s.host.awaiting)

/-- HOST takes the response (R26, R299). RESP_VALID falls here and at reset only, never at ACCEPT or at the fatal halt, and
RESP_DATA stays: DESIGN CHOICE, log 23. -/
def takeResponse (s : State) : State :=
  { s with seq.respValid := false, host.awaiting := false, host.lastResp := s.seq.respData }

/-- HOST's next act. -/
def hostAct (s : State) : State :=
  match s.host.todo with
  | [] => s
  | .present w :: rest => { s with port := some w, host.awaiting := true, host.todo := rest }
  | .expect v :: rest =>
    if s.host.lastResp = v then { s with host.todo := rest } else { s with host.halted := true }
  | .setOwner o :: rest => { s with host.owner := o, host.todo := rest }
  | .setLayer l :: rest => { s with host.layer := l, host.todo := rest }

/-- HOST's step; where none is enabled, nothing changes. -/
def hostStep (s : State) : State :=
  if hostEnabled s then (if s.seq.respValid then takeResponse s else hostAct s) else s

end Sys2Proof.Machine
end

