-- ==== Sys2Proof/Decode.lean ====
section
/-! DEFINITION. The decoder and, after it, the encoder of CMD40 (R100 to R104). -/

namespace Sys2Proof

/-! ### Fields of a command word (R100) -/

def opField (w : CmdWord) : Byte := w.extractLsb' 32 8
def aField (w : CmdWord) : Byte := w.extractLsb' 24 8
def bField (w : CmdWord) : Byte := w.extractLsb' 16 8
def cField (w : CmdWord) : Byte := w.extractLsb' 8 8
def dField (w : CmdWord) : Byte := w.extractLsb' 0 8

/-- The 7-bit `device_addr` is `a[6:0]` (R101). -/
def devOperand (w : CmdWord) : DevAddr := (aField w).extractLsb' 0 7

/-- The boolean `fast` is `c[0]` (R101). -/
def fastOperand (w : CmdWord) : Bool := (cField w).getLsbD 0

/-- Why a word is illegal (R104). -/
inductive IllegalWord where
  /-- `op` = 0x00 or `op` in 0x06 to 0xFF. -/
  | reservedOpcode
  /-- A field of R101 marked "must be 0" is not 0. -/
  | reservedFieldNotZero
  /-- An ENABLE with a pin identifier not below PIN_COUNT. -/
  | pinNotBelowPinCount
  deriving DecidableEq, Repr

/-- Decode a word whose reserved field must be zero. -/
def ifReservedZero (reservedZero : Bool) (i : Except IllegalWord Instr) : Except IllegalWord Instr :=
  if reservedZero then i else .error .reservedFieldNotZero

/-- `Decode(w)` (R103), total on all 2^40 words; an illegal word is rejected by name (R104). -/
def decode (pinCount : Nat) (w : CmdWord) : Except IllegalWord Instr :=
  if opField w = 0x01 then
    ifReservedZero (decide ((cField w).extractLsb' 1 7 = 0) && decide (dField w = 0))
      (if (aField w).toNat < pinCount ∧ (bField w).toNat < pinCount then
        .ok (.enable (aField w) (bField w) (fastOperand w))
      else .error .pinNotBelowPinCount)
  else if opField w = 0x02 then
    ifReservedZero (decide (aField w = 0) && decide (bField w = 0) && decide (cField w = 0) && decide (dField w = 0))
      (.ok .disable)
  else if opField w = 0x03 then
    ifReservedZero (!(aField w).getLsbD 7 && decide (cField w = 0) && decide (dField w = 0))
      (.ok (.regRead (devOperand w) (bField w)))
  else if opField w = 0x04 then
    ifReservedZero (!(aField w).getLsbD 7 && decide (dField w = 0))
      (.ok (.regWrite (devOperand w) (bField w) (cField w)))
  else if opField w = 0x05 then
    ifReservedZero (!(aField w).getLsbD 7)
      (.ok (.regWriteMask (devOperand w) (bField w) (cField w) (dField w)))
  else .error .reservedOpcode

/-! ### The encoder -/

/-- A word from its five bytes, `op` in the most significant place (R100). -/
def cmd40 (op a b c d : Byte) : CmdWord := op ++ (a ++ (b ++ (c ++ d)))

/-- The opcode values (R102). -/
def Instr.opcode : Instr → Byte
  | .enable _ _ _ => 0x01
  | .disable => 0x02
  | .regRead _ _ => 0x03
  | .regWrite _ _ _ => 0x04
  | .regWriteMask _ _ _ _ => 0x05

/-- `0 ++ device_addr` (R101). -/
def devByte (dev : DevAddr) : Byte := 0#1 ++ dev

/-- `0000000 ++ fast` (R101). -/
def fastByte (fast : Bool) : Byte := 0#7 ++ BitVec.ofBool fast

/-- `Encode(k)`: the word of a command, from the table of R101. -/
def encode : Instr → CmdWord
  | .enable clockPin dataPin fast => cmd40 0x01 clockPin dataPin (fastByte fast) 0x00
  | .disable => cmd40 0x02 0x00 0x00 0x00 0x00
  | .regRead dev reg => cmd40 0x03 (devByte dev) reg 0x00 0x00
  | .regWrite dev reg data => cmd40 0x04 (devByte dev) reg data 0x00
  | .regWriteMask dev reg mask data => cmd40 0x05 (devByte dev) reg mask data

/-! ### The rows of the opcode table (R102) -/

/-- `match` and `mask` of a row of R102. -/
def Instr.tableMatch : Instr → CmdWord
  | .enable _ _ _ => 0x0100000000
  | .disable => 0x0200000000
  | .regRead _ _ => 0x0300000000
  | .regWrite _ _ _ => 0x0400000000
  | .regWriteMask _ _ _ _ => 0x0500000000

def Instr.tableMask : Instr → CmdWord
  | .enable _ _ _ => 0xFF0000FEFF
  | .disable => 0xFFFFFFFFFF
  | .regRead _ _ => 0xFF8000FFFF
  | .regWrite _ _ _ => 0xFF800000FF
  | .regWriteMask _ _ _ _ => 0xFF80000000

/-! ### The host's entry points -/

/-- The command word whose low `nbits` bits are those of `w` and whose other bits are 0. The spec's one word is the
whole instruction, so table bit k is bit k of the command port's word (R100). -/
def tableWord (nbits w : Nat) : CmdWord := BitVec.ofNat 40 (w % 2 ^ nbits)

/-- What the decoder reads from an instruction numbered as spec/opcode_table.json numbers it, with PIN_COUNT at its
default 256 (R8). An instruction longer than 40 bits does not exist (R100). -/
def decodeTableWord (nbits w : Nat) : Option Instr :=
  if nbits ≤ 40 then
    match decode 256 (tableWord nbits w) with
    | .ok i => some i
    | .error _ => none
  else none

end Sys2Proof
end

