-- ==== Sys2Proof/Machine/Arbiter.lean ====
section
/-! DEFINITION. The busy-wait / poll completion arbiter: the phases POLL and CHECK (R231 to R234). -/

namespace Sys2Proof.Machine

/-- A POLL step that reads 0 under a poll limit (R234): it counts, and the step in which the count reaches the limit
raises Fatal(POLL_TIMEOUT) and does nothing else (R11, R290), so POLLCNT then stays as it was. DEDUCED, log 13. -/
def pollLimited (n : Nat) (s : State) : State :=
  if n ≤ s.seq.pollCnt + 1 then raiseFatal .pollTimeout s
  else setPc .poll { s with seq.pollCnt := s.seq.pollCnt + 1 }

/-- POLL (R231). With POLL_LIMIT = `none` a step that reads 0 changes nothing. -/
def pollStep (s : State) : Res State :=
  if isOne (readCR s .eventsStopped) then .next (setPc .check s)
  else
    match s.par.pollLimit with
    | none => .next (setPc .poll s)
    | some n => .next (pollLimited n s)

/-- CHECK(RD) (R232). -/
def checkRd (s : State) : Res State :=
  if s.cr.txdAmount ≠ 1 ∨ s.cr.rxdAmount ≠ 1 then .next (raiseFatal .countMismatchRd s)
  else .next (setPc .clear s)

/-- CHECK(WR) (R233): `RXD_AMOUNT` is not read. -/
def checkWr (s : State) : Res State :=
  if s.cr.txdAmount ≠ 2 then .next (raiseFatal .countMismatchWr s)
  else .next (setPc .clear s)

end Sys2Proof.Machine
end

