-- ==== Sys2Proof/Machine/Control.lean ====
section
/-! DEFINITION. The control commands ENABLE and DISABLE (R131, R132), and the condition under which ACCEPT takes a command
(R130). -/

namespace Sys2Proof.Machine

/-- A command is taken only at `pc` = IDLE; one presented while BUSY = 1 is not taken and has no effect, and at FATAL none
is ever taken (R130, R291). -/
def takenAtIdle (body : State → Res State) (s : State) : Res State :=
  if s.seq.pc = .idle then body s else .next s

/-- ENABLE (R131): the four register writes in the document's order, then `respond(0x00); pc <- IDLE`. Equal pins are
refused (R105, U3); a second ENABLE repeats the writes (D17). The latches are not written (R130's pseudocode;
spec/95_test_vectors.md 3.2: "the latches `OP` to `TMP` are not written"). -/
def execEnable (clockPin dataPin : Byte) (fast : Bool) (s : State) : Res State :=
  takenAtIdle (fun s =>
    if clockPin = dataPin then .refused .equalPins
    else
      chain (writeCR .pselScl (pselBound clockPin) s) fun s =>
      chain (writeCR .pselSda (pselBound dataPin) s) fun s =>
      chain (writeCR .frequency (BitVec.ofBool fast) s) fun s =>
      chain (writeCR .enable 1#1 s) fun s =>
      .next (endCommand 0x00 s)) s

/-- DISABLE (R132): `ENABLE <- 0`, then `respond(0x00); pc <- IDLE`. The latches are not written (R130's pseudocode;
spec/95_test_vectors.md 3.2). -/
def execDisable (s : State) : Res State :=
  takenAtIdle (fun s => chain (writeCR .enable 0#1 s) fun s => .next (endCommand 0x00 s)) s

end Sys2Proof.Machine
end

