-- ==== Sys2Proof/Machine/Transfer.lean ====
section
/-! DEFINITION. The transfer commands REG_READ, REG_WRITE, REG_WRITE_MASK (R150 to R152) and the sequencer's phases SETUP,
TRIGGER, CLEAR, COMPLETE (R154 to R160). A command's meaning is its ACCEPT step (R130); the phases that follow it, one
atomic step each (R12), carry its effect out, driven by the latches. -/

namespace Sys2Proof.Machine

/-- REG_READ (R130, R150): one read transfer begins. -/
def execRegRead (dev : DevAddr) (reg : Byte) (s : State) : Res State :=
  takenAtIdle (fun s => .next (latchTransfer 0x03 dev reg 0x00 0x00 .rd s)) s

/-- REG_WRITE (R130, R151): one write transfer begins. -/
def execRegWrite (dev : DevAddr) (reg data : Byte) (s : State) : Res State :=
  takenAtIdle (fun s => .next (latchTransfer 0x04 dev reg 0x00 data .wr s)) s

/-- REG_WRITE_MASK (R130, R152): the read half begins. -/
def execRegWriteMask (dev : DevAddr) (reg mask data : Byte) (s : State) : Res State :=
  takenAtIdle (fun s => .next (latchTransfer 0x05 dev reg mask data .rd s)) s

/-- SETUP(RD) (R154). -/
def setupRd (s : State) : Res State :=
  chain (writeCR .address s.seq.dev s) fun s =>
  chain (bufWrite 0 s.seq.reg s) fun s =>
  chain (writeCR .txdPtr 0x00#8 s) fun s =>
  chain (writeCR .txdMaxcnt 0x01#8 s) fun s =>
  chain (writeCR .rxdPtr 0x02#8 s) fun s =>
  chain (writeCR .rxdMaxcnt 0x01#8 s) fun s =>
  chain (writeCR .shorts 0b011#3 s) fun s =>
  .next (setPc .trigger s)

/-- SETUP(WR) (R155). -/
def setupWr (s : State) : Res State :=
  chain (wdata s.seq) fun w =>
  chain (writeCR .address s.seq.dev s) fun s =>
  chain (bufWrite 0 s.seq.reg s) fun s =>
  chain (bufWrite 1 w s) fun s =>
  chain (writeCR .txdPtr 0x00#8 s) fun s =>
  chain (writeCR .txdMaxcnt 0x02#8 s) fun s =>
  chain (writeCR .shorts 0b100#3 s) fun s =>
  .next (setPc .trigger s)

/-- `POLLCNT <- 0`, only if POLL_LIMIT is set (R156). -/
def zeroPollCnt (s : State) : State :=
  match s.par.pollLimit with
  | none => s
  | some _ => { s with seq.pollCnt := 0 }

/-- TRIGGER (R156). -/
def triggerStep (s : State) : Res State :=
  chain (writeCR .tasksStartTx 1#1 s) fun s => .next (setPc .poll (zeroPollCnt s))

/-- CLEAR(RD) (R157). -/
def clearRd (s : State) : Res State :=
  chain (writeCR .eventsTxDone 0#1 s) fun s =>
  chain (writeCR .eventsRxDone 0#1 s) fun s =>
  chain (writeCR .eventsStopped 0#1 s) fun s =>
  .next (setPc .complete s)

/-- CLEAR(WR) (R158): `EVENTS_RXDONE` is not written. -/
def clearWr (s : State) : Res State :=
  chain (writeCR .eventsTxDone 0#1 s) fun s =>
  chain (writeCR .eventsStopped 0#1 s) fun s =>
  .next (setPc .complete s)

/-- COMPLETE(RD) (R159): the byte becomes the response, or the write half begins. -/
def completeRd (s : State) : Res State :=
  chain (bufRead 2 s) fun v =>
  if s.seq.op = 0x03 then .next (endCommand v { s with seq.tmp := v })
  else if s.seq.op = 0x05 then .next { s with seq.tmp := v, seq.xfer := .wr, seq.pc := .setup }
  else .refused .opcodeOutOfPlace

/-- COMPLETE(WR) (R160). -/
def completeWr (s : State) : Res State := .next (endCommand 0x00 s)

end Sys2Proof.Machine
end

