-- ==== Sys2Proof/Machine/Dispatch.lean ====
section
/-! DEFINITION. The dispatch of a command to its meaning: the case split of the ACCEPT step (R130). -/

namespace Sys2Proof.Machine

def exec (i : Instr) (s : State) : Host.Outcome State Fault Refusal :=
  match i with
  | .enable clockPin dataPin fast => Sys2Proof.Machine.execEnable clockPin dataPin fast s
  | .disable => Sys2Proof.Machine.execDisable s
  | .regRead dev reg => Sys2Proof.Machine.execRegRead dev reg s
  | .regWrite dev reg data => Sys2Proof.Machine.execRegWrite dev reg data s
  | .regWriteMask dev reg mask data => Sys2Proof.Machine.execRegWriteMask dev reg mask data s

end Sys2Proof.Machine
end

