-- ==== Sys2Proof/Machine/Sequencer.lean ====
section
/-! DEFINITION. The steps of agent SEQ: ACCEPT at IDLE (R130) and one step per phase (R163). -/

namespace Sys2Proof.Machine

/-- ACCEPT of a word (R130): a legal command runs, an illegal word raises Fatal(ILLEGAL_COMMAND) (R104, R285). -/
def acceptWord (w : CmdWord) (s : State) : Res State :=
  match decode s.par.pinCount w with
  | .ok i => exec i s
  | .error _ => .next (raiseFatal .illegalCommand s)

/-- The command port's word is taken: HOST no longer presents it. -/
def takePort (s : State) : State := { s with port := none }

/-- Has SEQ an enabled step? ACCEPT needs a presented word (R130), FATAL has no step (R291), and every other phase needs
nothing (R237). -/
def seqEnabled (s : State) : Bool :=
  match s.seq.pc with
  | .idle => s.port.isSome
  | .fatal => false
  | .setup => true
  | .trigger => true
  | .poll => true
  | .check => true
  | .clear => true
  | .complete => true

/-- The sequencer's step, chosen by `pc` and `XFER` (R163); where none is enabled, nothing changes. -/
def seqStep (s : State) : Res State :=
  match s.seq.pc with
  | .idle =>
    match s.port with
    | none => .next s
    | some w => acceptWord w (takePort s)
  | .setup => match s.seq.xfer with | .rd => setupRd s | .wr => setupWr s
  | .trigger => triggerStep s
  | .poll => pollStep s
  | .check => match s.seq.xfer with | .rd => checkRd s | .wr => checkWr s
  | .clear => match s.seq.xfer with | .rd => clearRd s | .wr => clearWr s
  | .complete => match s.seq.xfer with | .rd => completeRd s | .wr => completeWr s
  | .fatal => .next s

end Sys2Proof.Machine
end

