-- ==== Sys2Proof/Machine/Schedule.lean ====
section
/-! DEFINITION. Whose step comes next (R12): the turn the schedule of State names; where it names none, the only enabled
agent; where several are enabled, a free value picks. Log 3. -/

namespace Sys2Proof.Machine

/-- Has an agent an enabled step? -/
def agentEnabled (s : State) : Agent → Bool
  | .host => hostEnabled s
  | .seq => seqEnabled s
  | .eng => engEnabled s

/-- The agents with an enabled step. -/
def enabledAgents (s : State) : List Agent := [Agent.host, .seq, .eng].filter (agentEnabled s)

/-- One step of an agent. -/
def agentStep : Agent → State → Res State
  | .host, s => .next (hostStep s)
  | .seq, s => seqStep s
  | .eng, s => engStep s

/-- Take the next entry off the schedule. -/
def dropTurn (s : State) : State := { s with env.sched := s.env.sched.tail }

/-- Count one drawn free value. -/
def countDraw (s : State) : State := { s with env.draws := s.env.draws + 1 }

/-- One step of the machine by a settled turn: an agent's, or the reset event. -/
def turnStep : Turn → State → Res State
  | .agent a, s => agentStep a s
  | .reset, s => .next (resetEvent s)

/-- The agent that a free value picks among two or more enabled ones. -/
def pickAgent (a b : Agent) (l : List Agent) (n : Nat) : Agent :=
  (a :: b :: l).getD (Config.freePick n % (l.length + 2)) a

/-- One step where the schedule settles nothing. -/
def freeStep (s : State) : Res State :=
  match enabledAgents s with
  | [] => .next s
  | [a] => agentStep a s
  | a :: b :: l => agentStep (pickAgent a b l s.env.draws) (countDraw s)

/-- One step of the machine. -/
def machineStep (s : State) : Res State :=
  match s.env.sched with
  | t :: _ => turnStep t (dropTurn s)
  | [] => freeStep s

/-- The agent that moves where the schedule settles nothing. -/
def freeMover (s : State) : Option Agent :=
  match enabledAgents s with
  | [] => none
  | [a] => some a
  | a :: b :: l => some (pickAgent a b l s.env.draws)

/-- The agent whose turn the next step is; a reset event is no agent's. -/
def mover (s : State) : Option Agent :=
  match s.env.sched with
  | .agent a :: _ => some a
  | .reset :: _ => none
  | [] => freeMover s

/-- Place a command so that the next step takes it (log 6): it stands on the command port, the sequencer is at IDLE, and
the next turn is the sequencer's. -/
def placeWord (w : CmdWord) (s : State) : State :=
  { s with port := some w, seq.pc := .idle, env.sched := .agent .seq :: s.env.sched }

end Sys2Proof.Machine
end

