-- ==== Sys2Proof/Machine/Step.lean ====
section
/-! DEFINITION. One step of the machine. -/

namespace Sys2Proof.Machine

/-- One atomic step of one agent, or the reset event (R12). -/
def step (s : State) : Host.Outcome State Fault Refusal := machineStep s

/-- The instruction placed where the next step takes it: the command port (R70, R130). -/
def State.withFetchWord (s : State) (nbits w : Nat) : State := placeWord (tableWord nbits w) s

end Sys2Proof.Machine
end

