-- ==== Sys2Proof/Machine/PmicLayer.lean ====
section
/-! DEFINITION. The pseudo-instructions: the ten operations of the PMIC Configuration Layer as host programs over the five
commands (R109, R250 to R264). They are surrounding software, not part of the block (R5 (b)). -/

namespace Sys2Proof.Machine

/-- `field_write(e, c)` (R252): the host shifts the code into place, in 8 bits. -/
def fieldWrite (e : RMapEntry) (code : Byte) : Instr := .regWriteMask e.dev e.reg e.mask (code <<< e.shift)

/-- `bit_write(e, on)` (R252). -/
def bitWrite (e : RMapEntry) (on : Bool) : Instr := .regWriteMask e.dev e.reg e.mask (if on then e.mask else 0x00)

/-- The eight configuration operations (R255 to R262). -/
inductive ConfigOp where
  | buck1v8Set
  | buckbst3v3Set
  | buckbstEnable (on : Bool)
  | buckDischargeSet (on : Bool)
  | vbusCurrentSet (code : Byte)
  | chargerCurrentSet (code : Byte)
  | ocChgCurrentSet (code : Byte)
  | chargingEnable (on : Bool)
  deriving DecidableEq, Repr

/-- The ten named operations (R253 to R262). -/
inductive PseudoOp where
  | new
  | release
  | config (op : ConfigOp)
  deriving DecidableEq, Repr

/-- The one command of a configuration operation (R255 to R262). -/
def configCommand (p : Params) : ConfigOp → Instr
  | .buck1v8Set => fieldWrite p.rmap.buckVout (p.code1v8.setWidth 8)
  | .buckbst3v3Set => fieldWrite p.rmap.buckbstVout p.code3v3
  | .buckbstEnable on => bitWrite p.rmap.buckbstEn on
  | .buckDischargeSet on => bitWrite p.rmap.buckDischg on
  | .vbusCurrentSet code => fieldWrite p.rmap.vbusIlim code
  | .chargerCurrentSet code => fieldWrite p.rmap.chgCurrent code
  | .ocChgCurrentSet code => fieldWrite p.rmap.ocChg code
  | .chargingEnable on => bitWrite p.rmap.chgEn on

/-- Present the word of a command. -/
def presentCmd (i : Instr) : HostAct := .present (encode i)

/-- The identity check of `new` (R253), issued only where ID_CHECK is set. -/
def identityCheck (p : Params) : List HostAct :=
  if p.idCheck then
    [presentCmd (.regRead p.pmicAddr p.regIdMfg), .expect p.idMfgValue,
      presentCmd (.regRead p.pmicAddr p.regIdRev), .expect p.idRevValue]
  else []

/-- The expansion of a pseudo-instruction (R109, R253 to R262). -/
def expand (p : Params) : PseudoOp → List HostAct
  | .new =>
    [.setOwner .layer, presentCmd (.enable p.pinSclFixed p.pinSdaFixed true)] ++ identityCheck p ++
      [.setLayer .configuring]
  | .release => [presentCmd .disable, .setLayer .released, .setOwner .caller]
  | .config op => [presentCmd (configCommand p op)]

/-- A host program of the layer (R263): `new`, then any number of the configuration operations, then `release`. -/
def session (p : Params) (ops : List ConfigOp) : List HostAct :=
  expand p .new ++ ops.flatMap (fun op => expand p (.config op)) ++ expand p .release

/-- The bring-up sequence of scenario C, in the document's order (R264). -/
def bringUp : List ConfigOp :=
  [.buck1v8Set, .buckbst3v3Set, .buckbstEnable true, .buckDischargeSet true, .vbusCurrentSet 0x07,
    .chargerCurrentSet 0x1F, .ocChgCurrentSet 0x07, .chargingEnable true]

/-- The words a host program presents, in order. -/
def wordsOf : List HostAct → List CmdWord
  | [] => []
  | .present w :: l => w :: wordsOf l
  | .expect _ :: l => wordsOf l
  | .setOwner _ :: l => wordsOf l
  | .setLayer _ :: l => wordsOf l

/-- Load a host program: HOST runs it after what it has left to do. -/
def loadHost (acts : List HostAct) (s : State) : State := { s with host.todo := s.host.todo ++ acts }

end Sys2Proof.Machine
end

