-- ==== Sys2Proof/Safety.lean ====
section
/-! DEFINITION. What counts as a safe run, in the terms the statements use: the invariant that holds between steps, the
launch states, reachability, the end of a run, weak fairness, the hang, and the schedules along which a transfer completes. -/

namespace Sys2Proof.Machine

/-! ### One byte of each memory -/

/-- One byte of BUF: `none` where nothing has written it since reset (R77). -/
def bufByte (s : State) (a : Nat) : Option Byte := memRead bufUnlisted s.buf a

/-- Has something written a byte of BUF since reset? -/
def bufWritten (s : State) (a : Nat) : Bool := (memLookup s.buf a).isSome

/-! ### The invariant -/

/-- The opcode latch fits the transfer (R23, R130, R159). -/
abbrev opFits (s : State) : Prop :=
  (s.seq.xfer = .rd → s.seq.op = 0x03 ∨ s.seq.op = 0x05) ∧ (s.seq.xfer = .wr → s.seq.op = 0x04 ∨ s.seq.op = 0x05)

/-- The descriptor is the one SETUP writes for the transfer, and every byte the engine will send is written (R42, R154,
R155). -/
abbrev descriptorReady (s : State) : Prop :=
  s.cr.address = s.seq.dev ∧ s.cr.txdPtr = 0x00 ∧ bufWritten s 0 = true ∧
    (s.seq.xfer = .rd → s.cr.shorts = 0b011#3 ∧ s.cr.txdMaxcnt = 0x01 ∧ s.cr.rxdPtr = 0x02 ∧ s.cr.rxdMaxcnt = 0x01) ∧
    (s.seq.xfer = .wr → s.cr.shorts = 0b100#3 ∧ s.cr.txdMaxcnt = 0x02 ∧ bufWritten s 1 = true)

/-- A write transfer has no read phase: the engine is in none, and receive-done is not generated (R45, R151). -/
abbrev noReadPhaseInWrite (s : State) : Prop :=
  s.seq.xfer = .wr → s.cr.eventsRxDone = false ∧ s.eng ≠ .rxAddr ∧ s.eng ≠ .rxData

/-- The engine is at rest and every event flag is 0: "clean idle" (R45). -/
abbrev clean (s : State) : Prop := flagsClear s = true ∧ s.eng = .idle

/-- While the sequencer polls: "stopped" is generated only by an engine gone IDLE; an engine that is IDLE without it was
never started, because the peripheral is inactive (R82, R191, R198). -/
abbrev pollCoherent (s : State) : Prop :=
  (s.cr.eventsStopped = true → s.eng = .idle) ∧
    (s.eng = .idle → s.cr.eventsStopped = true ∨ s.cr.enable = false) ∧ (s.cr.enable = false → clean s)

/-- A finished transaction waits for the verdict (R82): the engine is IDLE and "stopped" is generated. -/
abbrev stoppedClean (s : State) : Prop := s.cr.eventsStopped = true ∧ s.eng = .idle ∧ noReadPhaseInWrite s

/-- What holds at each phase (R45, R82, R292). -/
abbrev phaseCoherent (s : State) : Prop :=
  (s.seq.pc = .idle → clean s) ∧
    (s.seq.pc = .setup → clean s ∧ opFits s) ∧
    (s.seq.pc = .trigger → clean s ∧ opFits s ∧ descriptorReady s) ∧
    (s.seq.pc = .poll → opFits s ∧ descriptorReady s ∧ noReadPhaseInWrite s ∧ pollCoherent s) ∧
    (s.seq.pc = .check → opFits s ∧ stoppedClean s) ∧
    (s.seq.pc = .clear → opFits s ∧ stoppedClean s ∧ (s.seq.xfer = .rd → s.cr.rxdAmount = 0x01)) ∧
    (s.seq.pc = .complete → opFits s ∧ clean s ∧ (s.seq.xfer = .rd → bufWritten s 2 = true)) ∧
    (s.seq.pc = .fatal → s.eng ≠ .idle → descriptorReady s ∧ noReadPhaseInWrite s)

/-- `FAULT` = 1 exactly when `pc` = FATAL, and `CAUSE` is NONE exactly while `FAULT` = 0 (R25, R281). -/
abbrev faultRecorded (s : State) : Prop :=
  (s.seq.fault = true ↔ s.seq.pc = .fatal) ∧ (s.seq.cause = .none ↔ s.seq.fault = false)

/-- A received byte is in BUF (R196). -/
abbrev receivedByteKept (s : State) : Prop := s.cr.rxdAmount ≠ 0x00 → bufWritten s 2 = true

/-- Every memory is in canonical form, within its address space (R37, R40, R77). -/
abbrev memoriesWf (s : State) : Prop :=
  Memory.wf bufUnlisted s.par.bufSize s.buf = true ∧ Memory.wf storeUnlisted 256 s.dev.simStore = true ∧
    Memory.wf rsvdUnlisted 256 s.dev.simRsvd = true

/-- The invariant that holds between steps. -/
abbrev Inv (s : State) : Prop :=
  s.par.wf = true ∧ memoriesWf s ∧ faultRecorded s ∧ receivedByteKept s ∧ phaseCoherent s

/-! ### Runs -/

/-- A launch state: every element to which R44 gives a reset value has it. The elements R44 calls unspecified (the latches,
XFER, RESP_DATA, the pin numbers, FREQUENCY, the descriptors, the bytes of BUF) hold any value, so that log 1 plays no
part; so do the device, the host program, the word on the command port, the schedule and the legal parameters (R322). -/
def Launch (s : State) : Prop :=
  (s.seq.pc = .idle ∧ s.seq.pollCnt = 0 ∧ s.seq.fault = false ∧ s.seq.cause = .none ∧ s.seq.respValid = false) ∧
    (flagsClear s = true ∧ s.cr.shorts = 0 ∧ s.cr.enable = false ∧ pselIsBound s.cr.pselScl = false ∧
      pselIsBound s.cr.pselSda = false ∧ s.cr.txdAmount = 0 ∧ s.cr.rxdAmount = 0) ∧
    s.eng = .idle ∧ s.wire = [] ∧ s.host.owner = .caller ∧ s.par.wf = true ∧ memoriesWf s

/-- Reachable from a launch state by steps. -/
inductive Reachable : State → Prop where
  | launch (s : State) : Launch s → Reachable s
  | step (s t : State) : Reachable s → step s = .next t → Reachable t

/-- No reset event is in the schedule. -/
def noReset (s : State) : Prop := Turn.reset ∉ s.env.sched

/-- The end of a run of a host program (R333): HOST has presented its last word, the block has taken it, and HOST has
taken the response. R333 speaks of the last command's response only; that HOST has also done the acts that follow it and
are no commands (compare a response, move OWNER or the layer), `todo = []`, is the model's: DESIGN CHOICE, log 24. -/
def endOfRun (s : State) : Prop :=
  s.seq.pc = .idle ∧ s.seq.fault = false ∧ s.eng = .idle ∧ flagsClear s = true ∧ s.host.todo = [] ∧
    s.host.awaiting = false ∧ s.port = none ∧ s.seq.respValid = false

/-- An infinite run, as the sequence of its states. A run that ends stays in its last state. -/
def IsRun (r : Nat → State) : Prop := ∀ n, step (r n) = .next (r (n + 1))

/-- Weak fairness, the only liveness assumption of R12: an agent whose step stays enabled is eventually scheduled. -/
def WeaklyFair (r : Nat → State) : Prop :=
  ∀ (a : Agent) (n : Nat), (∀ m, n ≤ m → agentEnabled (r m) a = true) → ∃ m, n ≤ m ∧ mover (r m) = some a

/-- The hang (R287): the sequencer polls, "stopped" is not generated, and the engine has no step. -/
def hung (s : State) : Prop :=
  s.seq.pc = .poll ∧ s.cr.eventsStopped = false ∧ (s.eng = .stalled ∨ s.eng = .idle ∨ s.cr.enable = false)

/-- `n` steps of the engine alone. -/
def engRun : Nat → State → Res State
  | 0, s => .next s
  | n + 1, s => chain (engStep s) (engRun n)

/-! ### Schedules along which a transfer completes (R208) -/

/-- `n` turns of the sequencer. -/
def seqTurns (n : Nat) : List Turn := List.replicate n (.agent .seq)

/-- Turns of SEQ and ENG in any order, `k` of them the engine's. -/
def Interleaving (l : List Turn) (k : Nat) : Prop :=
  (∀ t ∈ l, t = .agent .seq ∨ t = .agent .eng) ∧ l.count (.agent .eng) = k

/-- The turns of one transfer with `k + 1` engine steps: SETUP, TRIGGER, then any interleaving of polls with the first
`k` engine steps, the last engine step, and POLL, CHECK, CLEAR, COMPLETE. -/
def transferTurns (l : List Turn) : List Turn := seqTurns 2 ++ l ++ [.agent .eng] ++ seqTurns 4

/-- The simulated device of R80 answers for an address, with no placed answer to come and no reserved bits (R161). -/
def PlainSimdev (d : Device) (a : DevAddr) : Prop :=
  d.kind = .simdev ∧ d.simAddr = a ∧ d.inject = [] ∧ d.simRsvd = []

/-- What a completed command leaves of the block, whichever it was (R161): IDLE, no fault, clear flags, an idle engine,
the control registers, parameters and host as they were, and the schedule's rest. -/
def quietAfter (s u : State) (rest : List Turn) : Prop :=
  u.seq.pc = .idle ∧ u.seq.fault = false ∧ u.seq.cause = s.seq.cause ∧ flagsClear u = true ∧ u.eng = .idle ∧
    u.cr.enable = s.cr.enable ∧ u.cr.pselScl = s.cr.pselScl ∧ u.cr.pselSda = s.cr.pselSda ∧
    u.cr.frequency = s.cr.frequency ∧ u.port = s.port ∧ u.host = s.host ∧ u.par = s.par ∧
    u.env = { s.env with sched := rest }

/-- A response was delivered, one and no more (R130, R161). -/
def responded (s u : State) (d : Byte) : Prop :=
  u.seq.respValid = true ∧ u.seq.respData = d ∧ u.seq.resps = s.seq.resps ++ [d]

/-- The symbols of a nominal read transaction (R201). -/
def readTrace (dev : DevAddr) (reg v : Byte) : List Sym :=
  [.start, .sent (addressByte dev 0#1) .a, .sent reg .a, .repStart, .sent (addressByte dev 1#1) .a, .got v .n, .stop]

/-- The symbols of a nominal write transaction (R202). -/
def writeTrace (dev : DevAddr) (reg data : Byte) : List Sym :=
  [.start, .sent (addressByte dev 0#1) .a, .sent reg .a, .sent data .a, .stop]

end Sys2Proof.Machine
end

