-- ==== Sys2Proof/Certificates/Slice0/Obligations.lean ====
section
/-! DEFINITION. The statements about the model, for the provers: the rules of spec/ that say what a command or the machine
does, the frames, the invariant, and the headline results. -/

open Sys2Proof Sys2Proof.Machine

/-! ### Encoding -/

/-- R103: `Encode` is the inverse of `Decode` on legal commands, with every operand at every value. -/
def Obligations.DecodeEncodeRoundTrip : Prop :=
  ∀ (pinCount : Nat) (i : Instr), i.wf pinCount = true → decode pinCount (encode i) = .ok i

/-- Each legal word has one meaning: it is the encoding of the command it decodes to, and that command is legal. -/
def Obligations.EncodeOfDecodedWord : Prop :=
  ∀ (pinCount : Nat) (w : CmdWord) (i : Instr),
    decode pinCount w = .ok i → encode i = w ∧ i.wf pinCount = true

/-- R102: a word selects a row of the opcode table when `w & mask = match`; with PIN_COUNT = 256 every such word is legal. -/
def Obligations.DecodeSelectsTableRow : Prop :=
  ∀ (w : CmdWord) (i : Instr),
    (∃ j, decode 256 w = .ok j ∧ j.opcode = i.opcode) ↔ w &&& i.tableMask = i.tableMatch

/-- R104: reserved opcodes, non-zero reserved fields and pins not below PIN_COUNT are illegal, each by name, and ACCEPT of
an illegal word raises Fatal(ILLEGAL_COMMAND). -/
def Obligations.IllegalWordsRejected : Prop :=
  ∀ (pinCount : Nat) (w : CmdWord),
    (opField w = 0x00 ∨ 0x06 ≤ (opField w).toNat → decode pinCount w = .error .reservedOpcode) ∧
    (∀ i : Instr, opField w = i.opcode → w &&& i.tableMask ≠ i.tableMatch →
      decode pinCount w = .error .reservedFieldNotZero) ∧
    (w &&& 0xFF0000FEFF = 0x0100000000 → ¬((aField w).toNat < pinCount ∧ (bField w).toNat < pinCount) →
      decode pinCount w = .error .pinNotBelowPinCount) ∧
    (∀ (s : State) (e : IllegalWord), decode s.par.pinCount w = .error e →
      acceptWord w s = .next (raiseFatal .illegalCommand s))

/-- Words written out in spec/95_test_vectors.md 3.1 decode to the commands they stand for. -/
def Obligations.SpecWordsDecode : Prop :=
  decodeTableWord 40 0x010C0B0100 = some (.enable 0x0C 0x0B true) ∧
  decodeTableWord 40 0x0200000000 = some .disable ∧
  decodeTableWord 40 0x037FFF0000 = some (.regRead 0x7F 0xFF) ∧
  decodeTableWord 40 0x0446901800 = some (.regWrite 0x46 0x90 0x18) ∧
  decodeTableWord 40 0x0546903F18 = some (.regWriteMask 0x46 0x90 0x3F 0x18) ∧
  decodeTableWord 40 0x0600000000 = none

/-! ### From the machine's step to a command's meaning -/

/-- A step of the sequencer at IDLE runs the command on the port: `step` is `exec` of the decoded command with the word
taken off the port and the turn off the schedule. An illegal word is the fatal halt. The turn is the sequencer's by the
schedule, or because no other agent has an enabled step. `withFetchWord` places a word so. -/
def Obligations.StepRunsDecodedCommand : Prop :=
  (∀ (s : State) (w : CmdWord) (rest : List Turn), s.seq.pc = .idle → s.port = some w →
    s.env.sched = .agent .seq :: rest →
    (∀ i, decode s.par.pinCount w = .ok i → step s = exec i { s with port := none, env.sched := rest }) ∧
    (∀ e, decode s.par.pinCount w = .error e →
      step s = .next { s with
        port := none, env.sched := rest, seq.fault := true, seq.cause := .illegalCommand,
        seq.pc := .fatal })) ∧
  (∀ (s : State) (w : CmdWord) (i : Instr), s.seq.pc = .idle → s.port = some w → s.env.sched = [] →
    enabledAgents s = [.seq] → decode s.par.pinCount w = .ok i → step s = exec i { s with port := none }) ∧
  (∀ (s : State) (nbits w : Nat) (i : Instr), decode s.par.pinCount (tableWord nbits w) = .ok i →
    step (s.withFetchWord nbits w) = exec i { s with port := none, seq.pc := .idle })

/-- R130, the ACCEPT step whole: what each command and an illegal word do at IDLE, that a word presented elsewhere is not
taken and has no effect, and that HOST presents a word only when BUSY = 0 and FATAL_OUT = 0 and then waits. `resps` is the
model's record of R130's events `Resp(d)`. -/
def Obligations.AcceptStepByCommand : Prop :=
  ∀ (s : State) (w : CmdWord),
    (s.seq.pc = .idle → ∀ e, decode s.par.pinCount w = .error e →
      acceptWord w s = .next (raiseFatal .illegalCommand s)) ∧
    (s.seq.pc = .idle → ∀ a b fast, a ≠ b → decode s.par.pinCount w = .ok (.enable a b fast) →
      acceptWord w s = .next (setPc .idle (respond 0x00
        { s with cr.pselScl := pselBound a, cr.pselSda := pselBound b, cr.frequency := fast, cr.enable := true }))) ∧
    (s.seq.pc = .idle → decode s.par.pinCount w = .ok .disable →
      acceptWord w s = .next (setPc .idle (respond 0x00 { s with cr.enable := false }))) ∧
    (s.seq.pc = .idle → ∀ dev reg, decode s.par.pinCount w = .ok (.regRead dev reg) →
      acceptWord w s = .next { s with
        seq.op := 0x03, seq.dev := dev, seq.reg := reg, seq.mask := 0x00,
        seq.data := 0x00, seq.xfer := .rd, seq.pc := .setup }) ∧
    (s.seq.pc = .idle → ∀ dev reg data, decode s.par.pinCount w = .ok (.regWrite dev reg data) →
      acceptWord w s = .next { s with
        seq.op := 0x04, seq.dev := dev, seq.reg := reg, seq.mask := 0x00,
        seq.data := data, seq.xfer := .wr, seq.pc := .setup }) ∧
    (s.seq.pc = .idle → ∀ dev reg mask data, decode s.par.pinCount w = .ok (.regWriteMask dev reg mask data) →
      acceptWord w s = .next { s with
        seq.op := 0x05, seq.dev := dev, seq.reg := reg, seq.mask := mask,
        seq.data := data, seq.xfer := .rd, seq.pc := .setup }) ∧
    (s.seq.pc ≠ .idle → (∀ i, exec i s = .next s) ∧ (∀ t, seqStep s = .next t → t.port = s.port)) ∧
    ((hostStep s).port ≠ s.port → busy s = false ∧ fatalOut s = false ∧ (hostStep s).host.awaiting = true)

/-! ### The control commands -/

/-- R131: ENABLE binds the two pins, selects the rate, activates the peripheral and responds 0x00, whatever was enabled
before; nothing else changes. With equal pins the model refuses. -/
def Obligations.EnableBindsPinsAndActivates : Prop :=
  ∀ (clockPin dataPin : Byte) (fast : Bool) (s : State), s.seq.pc = .idle →
    (clockPin ≠ dataPin → exec (.enable clockPin dataPin fast) s = .next { s with
      cr.pselScl := 1#1 ++ clockPin, cr.pselSda := 1#1 ++ dataPin, cr.frequency := fast, cr.enable := true,
      seq.respValid := true, seq.respData := 0x00, seq.resps := s.seq.resps ++ [0x00], seq.pc := .idle }) ∧
    (clockPin = dataPin → exec (.enable clockPin dataPin fast) s = .refused .equalPins)

/-- R132: DISABLE deactivates the peripheral and responds 0x00; the pin bindings and everything else stay. -/
def Obligations.DisableOnlyDeactivates : Prop :=
  ∀ s : State, s.seq.pc = .idle → exec .disable s = .next { s with
    cr.enable := false, seq.respValid := true, seq.respData := 0x00, seq.resps := s.seq.resps ++ [0x00],
    seq.pc := .idle }

/-- The frame of ENABLE and DISABLE: the latches, the fault record, the event flags, the descriptors, every byte of BUF
and of the simulated store, the engine, the wire, the port, the host and the parameters are as before; DISABLE also
leaves the pins and the rate. -/
def Obligations.ControlCommandsFrame : Prop :=
  ∀ (i : Instr) (s t : State), (i = .disable ∨ ∃ a b fast, i = .enable a b fast) → exec i s = .next t →
    (t.seq.op = s.seq.op ∧ t.seq.dev = s.seq.dev ∧ t.seq.reg = s.seq.reg ∧ t.seq.mask = s.seq.mask ∧
      t.seq.data = s.seq.data ∧ t.seq.tmp = s.seq.tmp ∧ t.seq.xfer = s.seq.xfer ∧ t.seq.pollCnt = s.seq.pollCnt ∧
      t.seq.fault = s.seq.fault ∧ t.seq.cause = s.seq.cause ∧ t.seq.pc = s.seq.pc) ∧
    (t.cr.eventsTxDone = s.cr.eventsTxDone ∧ t.cr.eventsRxDone = s.cr.eventsRxDone ∧
      t.cr.eventsStopped = s.cr.eventsStopped ∧ t.cr.shorts = s.cr.shorts ∧ t.cr.address = s.cr.address ∧
      t.cr.txdPtr = s.cr.txdPtr ∧ t.cr.txdMaxcnt = s.cr.txdMaxcnt ∧ t.cr.txdAmount = s.cr.txdAmount ∧
      t.cr.rxdPtr = s.cr.rxdPtr ∧ t.cr.rxdMaxcnt = s.cr.rxdMaxcnt ∧ t.cr.rxdAmount = s.cr.rxdAmount) ∧
    (∀ a, bufByte t a = bufByte s a) ∧ (∀ r, storeByte t.dev r = storeByte s.dev r) ∧
    t.eng = s.eng ∧ t.wire = s.wire ∧ t.port = s.port ∧ t.dev = s.dev ∧ t.host = s.host ∧ t.env = s.env ∧
    t.par = s.par ∧
    (i = .disable → t.cr.pselScl = s.cr.pselScl ∧ t.cr.pselSda = s.cr.pselSda ∧ t.cr.frequency = s.cr.frequency)

/-! ### The transfer commands -/

/-- R130: a transfer command taken at IDLE answers the next state in which its operands are latched, the transfer selected
and `pc` = SETUP, for every operand and whatever else the state holds; nothing is driven yet. -/
def Obligations.TransferCommandsLatch : Prop :=
  ∀ (dev : DevAddr) (reg mask data : Byte) (s : State), s.seq.pc = .idle →
    exec (.regRead dev reg) s = .next { s with
      seq.op := 0x03, seq.dev := dev, seq.reg := reg, seq.mask := 0x00, seq.data := 0x00, seq.xfer := .rd,
      seq.pc := .setup } ∧
    exec (.regWrite dev reg data) s = .next { s with
      seq.op := 0x04, seq.dev := dev, seq.reg := reg, seq.mask := 0x00, seq.data := data, seq.xfer := .wr,
      seq.pc := .setup } ∧
    exec (.regWriteMask dev reg mask data) s = .next { s with
      seq.op := 0x05, seq.dev := dev, seq.reg := reg, seq.mask := mask, seq.data := data, seq.xfer := .rd,
      seq.pc := .setup }

/-- The frame of a transfer command's ACCEPT: no controller register, no byte of BUF or of the simulated store, no event,
no response and no fault record changes; only OP, DEV, REG, MASK, DATA, XFER and pc do. -/
def Obligations.TransferAcceptFrame : Prop :=
  ∀ (i : Instr) (s t : State),
    ((∃ d r, i = .regRead d r) ∨ (∃ d r b, i = .regWrite d r b) ∨ ∃ d r m b, i = .regWriteMask d r m b) →
    exec i s = .next t →
    t.cr = s.cr ∧ (∀ a, bufByte t a = bufByte s a) ∧ (∀ r, storeByte t.dev r = storeByte s.dev r) ∧ t.eng = s.eng ∧
      t.wire = s.wire ∧ t.port = s.port ∧ t.dev = s.dev ∧ t.host = s.host ∧ t.env = s.env ∧ t.par = s.par ∧
      t.seq.tmp = s.seq.tmp ∧ t.seq.pollCnt = s.seq.pollCnt ∧ t.seq.fault = s.seq.fault ∧
      t.seq.cause = s.seq.cause ∧ t.seq.respValid = s.seq.respValid ∧ t.seq.respData = s.seq.respData ∧
      t.seq.resps = s.seq.resps

/-- REG_READ completes against the simulated device under every interleaving of the polls with the engine's seven steps:
the response is the stored byte, the store is unchanged, the wire carries the nominal read, and the block is quiet. -/
def Obligations.RegReadCompletes : Prop :=
  ∀ (dev : DevAddr) (reg : Byte) (s : State) (l rest : List Turn),
    Inv s → s.seq.pc = .idle → s.cr.enable = true → s.par.pollLimit = none → PlainSimdev s.dev dev →
    Interleaving l 6 → s.env.sched = transferTurns l ++ rest →
    ∃ t u : State, exec (.regRead dev reg) s = .next t ∧
      Sys2Proof.core.run (transferTurns l).length t = .next u ∧
      quietAfter s u rest ∧ responded s u (storeByte s.dev reg) ∧ u.seq.tmp = storeByte s.dev reg ∧
      u.wire = s.wire ++ readTrace dev reg (storeByte s.dev reg) ∧
      u.dev.simPtr = reg ∧ (∀ r, storeByte u.dev r = storeByte s.dev r) ∧
      u.cr.txdAmount = 1 ∧ u.cr.rxdAmount = 1 ∧
      bufByte u 0 = some reg ∧ bufByte u 2 = some (storeByte s.dev reg) ∧
      (∀ a, a ≠ 0 → a ≠ 2 → bufByte u a = bufByte s a)

/-- REG_WRITE completes against the simulated device under every interleaving of the polls with the engine's five steps:
the stored byte is the data, every other byte of the store is unchanged, and the response is 0x00. -/
def Obligations.RegWriteCompletes : Prop :=
  ∀ (dev : DevAddr) (reg data : Byte) (s : State) (l rest : List Turn),
    Inv s → s.seq.pc = .idle → s.cr.enable = true → s.par.pollLimit = none → PlainSimdev s.dev dev →
    Interleaving l 4 → s.env.sched = transferTurns l ++ rest →
    ∃ t u : State, exec (.regWrite dev reg data) s = .next t ∧
      Sys2Proof.core.run (transferTurns l).length t = .next u ∧
      quietAfter s u rest ∧ responded s u 0x00 ∧ u.seq.tmp = s.seq.tmp ∧
      u.wire = s.wire ++ writeTrace dev reg data ∧
      u.dev.simPtr = reg ∧ storeByte u.dev reg = data ∧ (∀ r, r ≠ reg → storeByte u.dev r = storeByte s.dev r) ∧
      u.cr.txdAmount = 2 ∧ u.cr.rxdAmount = 0 ∧ u.cr.rxdPtr = s.cr.rxdPtr ∧ u.cr.rxdMaxcnt = s.cr.rxdMaxcnt ∧
      bufByte u 0 = some reg ∧ bufByte u 1 = some data ∧ (∀ a, a ≠ 0 → a ≠ 1 → bufByte u a = bufByte s a)

/-- REG_WRITE_MASK completes against the simulated device as a read transfer and then a write transfer: the stored byte
becomes the merge, every other byte of the store is unchanged, and there is exactly one response. -/
def Obligations.RegWriteMaskCompletes : Prop :=
  ∀ (dev : DevAddr) (reg mask data : Byte) (s : State) (l l' rest : List Turn),
    Inv s → s.seq.pc = .idle → s.cr.enable = true → s.par.pollLimit = none → PlainSimdev s.dev dev →
    Interleaving l 6 → Interleaving l' 4 → s.env.sched = transferTurns l ++ (transferTurns l' ++ rest) →
    ∃ t u : State, exec (.regWriteMask dev reg mask data) s = .next t ∧
      Sys2Proof.core.run ((transferTurns l).length + (transferTurns l').length) t = .next u ∧
      quietAfter s u rest ∧ responded s u 0x00 ∧ u.seq.tmp = storeByte s.dev reg ∧
      u.wire = s.wire ++ readTrace dev reg (storeByte s.dev reg) ++
        writeTrace dev reg (merge (storeByte s.dev reg) mask data) ∧
      u.dev.simPtr = reg ∧ storeByte u.dev reg = merge (storeByte s.dev reg) mask data ∧
      (∀ r, r ≠ reg → storeByte u.dev r = storeByte s.dev r) ∧
      bufByte u 0 = some reg ∧ bufByte u 1 = some (merge (storeByte s.dev reg) mask data) ∧
      bufByte u 2 = some (storeByte s.dev reg) ∧ (∀ a, 2 < a → bufByte u a = bufByte s a)

/-! ### The phases -/

/-- R154: SETUP(RD) writes ADDRESS, BUF[0], the two descriptors and SHORTS = 0b011, and nothing else. -/
def Obligations.SetupReadStep : Prop :=
  ∀ s : State, s.seq.pc = .setup → s.seq.xfer = .rd → 3 ≤ s.par.bufSize →
    ∃ t : State, seqStep s = .next t ∧
      t = { s with
        cr.address := s.seq.dev, cr.txdPtr := 0, cr.txdMaxcnt := 1, cr.rxdPtr := 2, cr.rxdMaxcnt := 1,
        cr.shorts := 0b011#3, buf := t.buf, seq.pc := .trigger } ∧
      bufByte t 0 = some s.seq.reg ∧ ∀ a, a ≠ 0 → bufByte t a = bufByte s a

/-- R155: SETUP(WR) writes ADDRESS, BUF[0], BUF[1] = WDATA, the transmit descriptor and SHORTS = 0b100, and nothing else:
the receive descriptor stays. -/
def Obligations.SetupWriteStep : Prop :=
  ∀ (s : State) (w : Byte), s.seq.pc = .setup → s.seq.xfer = .wr → 3 ≤ s.par.bufSize →
    ((s.seq.op = 0x04 ∧ w = s.seq.data) ∨ (s.seq.op = 0x05 ∧ w = merge s.seq.tmp s.seq.mask s.seq.data)) →
    ∃ t : State, seqStep s = .next t ∧
      t = { s with
        cr.address := s.seq.dev, cr.txdPtr := 0, cr.txdMaxcnt := 2, cr.shorts := 0b100#3,
        buf := t.buf, seq.pc := .trigger } ∧
      bufByte t 0 = some s.seq.reg ∧ bufByte t 1 = some w ∧ ∀ a, a ≠ 0 → a ≠ 1 → bufByte t a = bufByte s a

/-- R153: the merge function, its four laws, and WDATA. -/
def Obligations.MergeLaws : Prop :=
  ∀ old mask data data' : Byte,
    merge old mask data = (old &&& ~~~mask) ||| (data &&& mask) ∧
    merge old mask data &&& mask = data &&& mask ∧
    merge old mask data &&& ~~~mask = old &&& ~~~mask ∧
    merge (merge old mask data) mask data = merge old mask data ∧
    merge (merge old mask data) mask data' = merge old mask data' ∧
    ∀ q : SeqState, (q.op = 0x04 → wdata q = .next q.data) ∧
      (q.op = 0x05 → wdata q = .next (merge q.tmp q.mask q.data))

/-- R156 with R191: TRIGGER starts an idle engine of an active peripheral with both counters zeroed, is ignored by an
inactive one, and is refused during a transaction; POLLCNT is zeroed only if POLL_LIMIT is set; `pc <- POLL`. -/
def Obligations.TriggerStep : Prop :=
  ∀ s : State, s.seq.pc = .trigger →
    (s.cr.enable = true → s.eng = .idle → seqStep s = .next { s with
      cr.txdAmount := 0, cr.rxdAmount := 0, eng := .txAddr,
      seq.pollCnt := (if s.par.pollLimit = none then s.seq.pollCnt else 0), seq.pc := .poll }) ∧
    (s.cr.enable = false → seqStep s = .next { s with
      seq.pollCnt := (if s.par.pollLimit = none then s.seq.pollCnt else 0), seq.pc := .poll }) ∧
    (s.cr.enable = true → s.eng ≠ .idle → seqStep s = .refused .triggerDuringTransaction)

/-- R231 and R234: POLL passes on "stopped"; without a limit a POLL that reads 0 changes no state at all; under a limit it
counts, and the n-th one that reads 0 raises Fatal(POLL_TIMEOUT). A flag that reads 1 always wins. That the raising step
leaves POLLCNT as it was (R11, R290), although R234 writes the count first, is the model's reading: DEDUCED, log 13. -/
def Obligations.PollStep : Prop :=
  ∀ s : State, s.seq.pc = .poll →
    (s.cr.eventsStopped = true → seqStep s = .next { s with seq.pc := .check }) ∧
    (s.cr.eventsStopped = false → s.par.pollLimit = none → seqStep s = .next s) ∧
    (∀ n, s.cr.eventsStopped = false → s.par.pollLimit = some n → s.seq.pollCnt + 1 < n →
      seqStep s = .next { s with seq.pollCnt := s.seq.pollCnt + 1 }) ∧
    (∀ n, s.cr.eventsStopped = false → s.par.pollLimit = some n → n ≤ s.seq.pollCnt + 1 →
      seqStep s = .next { s with seq.fault := true, seq.cause := .pollTimeout, seq.pc := .fatal })

/-- R232 and R233: CHECK compares the counters for inequality, in either direction, and raises or passes; in a write
RXD_AMOUNT is not read. -/
def Obligations.CheckStep : Prop :=
  ∀ s : State, s.seq.pc = .check →
    (s.seq.xfer = .rd →
      (s.cr.txdAmount ≠ 1 ∨ s.cr.rxdAmount ≠ 1 → seqStep s = .next { s with
        seq.fault := true, seq.cause := .countMismatchRd, seq.pc := .fatal }) ∧
      (s.cr.txdAmount = 1 → s.cr.rxdAmount = 1 → seqStep s = .next { s with seq.pc := .clear })) ∧
    (s.seq.xfer = .wr →
      (s.cr.txdAmount ≠ 2 → seqStep s = .next { s with
        seq.fault := true, seq.cause := .countMismatchWr, seq.pc := .fatal }) ∧
      (s.cr.txdAmount = 2 → seqStep s = .next { s with seq.pc := .clear }))

/-- R230: the two phases POLL and CHECK carry out the arbiter's verdict, with no poll limit set. -/
def Obligations.VerdictOverPollAndCheck : Prop :=
  ∀ s : State, s.seq.pc = .poll → s.par.pollLimit = none →
    match verdict s.cr.eventsStopped s.cr.txdAmount s.cr.rxdAmount s.seq.xfer with
    | .wait => seqStep s = .next s
    | .fatal c => chain (seqStep s) seqStep = .next (raiseFatal c { s with seq.pc := .check })
    | .ok => chain (seqStep s) seqStep = .next { s with seq.pc := .clear }

/-- R157 and R158: CLEAR clears all three flags after a read; after a write it clears transmit-done and stopped, and does
not write receive-done. -/
def Obligations.ClearStep : Prop :=
  ∀ s : State, s.seq.pc = .clear →
    (s.seq.xfer = .rd → seqStep s = .next { s with
      cr.eventsTxDone := false, cr.eventsRxDone := false, cr.eventsStopped := false, seq.pc := .complete }) ∧
    (s.seq.xfer = .wr → seqStep s = .next { s with
      cr.eventsTxDone := false, cr.eventsStopped := false, seq.pc := .complete })

/-- R159 and R160: COMPLETE takes the received byte from BUF[2] and responds with it, or begins the write half of
REG_WRITE_MASK with no response; after a write it responds 0x00. -/
def Obligations.CompleteStep : Prop :=
  ∀ s : State, s.seq.pc = .complete →
    (∀ v, s.seq.xfer = .rd → 3 ≤ s.par.bufSize → bufByte s 2 = some v →
      (s.seq.op = 0x03 → seqStep s = .next { s with
        seq.tmp := v, seq.respValid := true, seq.respData := v,
        seq.resps := s.seq.resps ++ [v], seq.pc := .idle }) ∧
      (s.seq.op = 0x05 → seqStep s = .next { s with seq.tmp := v, seq.xfer := .wr, seq.pc := .setup })) ∧
    (s.seq.xfer = .wr → seqStep s = .next { s with
      seq.respValid := true, seq.respData := 0x00, seq.resps := s.seq.resps ++ [0x00], seq.pc := .idle })

/-- R163: the phase graph, every edge with its condition; a step of the sequencer takes no other edge. POLL writes no
register and no BUF byte. -/
def Obligations.PhaseGraph : Prop :=
  ∀ s t : State, seqStep s = .next t →
    (s.seq.pc = .idle → s.port = none → t = s) ∧
    (∀ w, s.seq.pc = .idle → s.port = some w →
      (∀ e, decode s.par.pinCount w = .error e → t.seq.pc = .fatal) ∧
      (∀ i, decode s.par.pinCount w = .ok i →
        t.seq.pc = if i = .disable ∨ i.opcode = 0x01 then .idle else .setup)) ∧
    (s.seq.pc = .setup → t.seq.pc = .trigger) ∧
    (s.seq.pc = .trigger → t.seq.pc = .poll) ∧
    (s.seq.pc = .poll → s.cr.eventsStopped = true → t.seq.pc = .check) ∧
    (s.seq.pc = .poll → s.cr.eventsStopped = false →
      (s.par.pollLimit = none → t.seq.pc = .poll) ∧
      (∀ n, s.par.pollLimit = some n → t.seq.pc = if n ≤ s.seq.pollCnt + 1 then .fatal else .poll)) ∧
    (s.seq.pc = .poll → t.cr = s.cr ∧ t.buf = s.buf) ∧
    (s.seq.pc = .check → t.seq.pc =
      if (s.seq.xfer = .rd ∧ s.cr.txdAmount = 1 ∧ s.cr.rxdAmount = 1) ∨ (s.seq.xfer = .wr ∧ s.cr.txdAmount = 2)
      then .clear else .fatal) ∧
    (s.seq.pc = .clear → t.seq.pc = .complete) ∧
    (s.seq.pc = .complete → s.seq.xfer = .wr ∨ s.seq.op = 0x03 → t.seq.pc = .idle) ∧
    (s.seq.pc = .complete → s.seq.xfer = .rd → s.seq.op = 0x05 → t.seq.pc = .setup ∧ t.seq.xfer = .wr) ∧
    (s.seq.pc = .fatal → t = s)

/-! ### The engine -/

/-- R192: E-TXADDR, by the device's answer. -/
def Obligations.EngTxAddrStep : Prop :=
  ∀ (s : State) (k : Ack), s.cr.enable = true → s.eng = .txAddr → (devAddrAck 0#1 s).1 = k →
    engStep s = .next (match k with
      | .ack => { s with
          wire := s.wire ++ [.start, .sent (s.cr.address ++ 0#1) .a], dev.asked := s.dev.asked + 1,
          eng := .txData }
      | .nack => { s with
          wire := s.wire ++ [.start, .sent (s.cr.address ++ 0#1) .n], dev.asked := s.dev.asked + 1,
          eng := .stalled }
      | .abort => { s with wire := s.wire ++ [.start], dev.asked := s.dev.asked + 1, eng := .stopping })

/-- R193, with R77 and R207 for the BUF read: E-TXDATA sends BUF[TXD_PTR + TXD_AMOUNT] and counts it only if the device
acknowledges; a byte outside BUF is refused, one that nothing has written faults the model. -/
def Obligations.EngTxDataStep : Prop :=
  ∀ s : State, s.cr.enable = true → s.eng = .txData → s.cr.txdAmount.toNat < s.cr.txdMaxcnt.toNat →
    (∀ (b : Byte) (k : Ack) (q : State), s.cr.txdPtr.toNat + s.cr.txdAmount.toNat < s.par.bufSize →
      bufByte s (s.cr.txdPtr.toNat + s.cr.txdAmount.toNat) = some b →
      devWriteByte s.cr.txdAmount.toNat b s = .next (k, q) →
      engStep s = .next (match k with
        | .ack => { q with wire := s.wire ++ [.sent b .a], cr.txdAmount := s.cr.txdAmount + 1 }
        | .nack => { q with wire := s.wire ++ [.sent b .n], eng := .stalled }
        | .abort => { q with eng := .stopping })) ∧
    (s.par.bufSize ≤ s.cr.txdPtr.toNat + s.cr.txdAmount.toNat →
      engStep s = .refused (.bufOutOfRange (s.cr.txdPtr.toNat + s.cr.txdAmount.toNat))) ∧
    (s.cr.txdPtr.toNat + s.cr.txdAmount.toNat < s.par.bufSize →
      bufByte s (s.cr.txdPtr.toNat + s.cr.txdAmount.toNat) = none →
      engStep s = .fault (.bufUnwritten (s.cr.txdPtr.toNat + s.cr.txdAmount.toNat)))

/-- R194, R197 and R204: the completion of a phase generates its event and follows the shortcut in the same step; a
missing link stalls, and two transmit-done links at once are refused. -/
def Obligations.PhaseCompletionSteps : Prop :=
  ∀ s : State, s.cr.enable = true →
    (s.eng = .txData → s.cr.txdAmount = s.cr.txdMaxcnt →
      (s.cr.shorts.getLsbD 0 = true → s.cr.shorts.getLsbD 2 = false →
        engStep s = .next { s with cr.eventsTxDone := true, eng := .rxAddr }) ∧
      (s.cr.shorts.getLsbD 0 = false → s.cr.shorts.getLsbD 2 = true →
        engStep s = .next { s with cr.eventsTxDone := true, eng := .stopping }) ∧
      (s.cr.shorts.getLsbD 0 = false → s.cr.shorts.getLsbD 2 = false →
        engStep s = .next { s with cr.eventsTxDone := true, eng := .stalled }) ∧
      (s.cr.shorts.getLsbD 0 = true → s.cr.shorts.getLsbD 2 = true →
        engStep s = .refused .bothTxDoneLinks)) ∧
    (s.eng = .rxData → s.cr.rxdAmount = s.cr.rxdMaxcnt →
      (s.cr.shorts.getLsbD 1 = true → engStep s = .next { s with cr.eventsRxDone := true, eng := .stopping }) ∧
      (s.cr.shorts.getLsbD 1 = false → engStep s = .next { s with cr.eventsRxDone := true, eng := .stalled }))

/-- R195: E-RXADDR, by the device's answer. -/
def Obligations.EngRxAddrStep : Prop :=
  ∀ (s : State) (k : Ack), s.cr.enable = true → s.eng = .rxAddr → (devAddrAck 1#1 s).1 = k →
    engStep s = .next (match k with
      | .ack => { s with
          wire := s.wire ++ [.repStart, .sent (s.cr.address ++ 1#1) .a], dev.asked := s.dev.asked + 1,
          eng := .rxData }
      | .nack => { s with
          wire := s.wire ++ [.repStart, .sent (s.cr.address ++ 1#1) .n],
          dev.asked := s.dev.asked + 1, eng := .stalled }
      | .abort => { s with wire := s.wire ++ [.repStart], dev.asked := s.dev.asked + 1, eng := .stopping })

/-- R196, with R207 for the BUF write: E-RXDATA stores the byte at RXD_PTR + RXD_AMOUNT, counts it, and answers N after the
last byte of the phase, A otherwise; every other byte of BUF stays. An ABORT stops the transaction. -/
def Obligations.EngRxDataStep : Prop :=
  ∀ (s q : State) (r : ReadAns), s.cr.enable = true → s.eng = .rxData →
    s.cr.rxdAmount.toNat < s.cr.rxdMaxcnt.toNat → devReadByte s.cr.rxdAmount.toNat s = .next (r, q) →
    (r = .abort → engStep s = .next { q with eng := .stopping }) ∧
    (∀ v, r = .byte v → s.cr.rxdPtr.toNat + s.cr.rxdAmount.toNat < s.par.bufSize →
      ∃ t : State, engStep s = .next t ∧
        t = { q with
          buf := t.buf, cr.rxdAmount := s.cr.rxdAmount + 1,
          wire := s.wire ++ [.got v (if s.cr.rxdAmount + 1 = s.cr.rxdMaxcnt then .n else .a)] } ∧
        bufByte t (s.cr.rxdPtr.toNat + s.cr.rxdAmount.toNat) = some v ∧
        ∀ a, a ≠ s.cr.rxdPtr.toNat + s.cr.rxdAmount.toNat → bufByte t a = bufByte s a) ∧
    (∀ v, r = .byte v → s.par.bufSize ≤ s.cr.rxdPtr.toNat + s.cr.rxdAmount.toNat →
      engStep s = .refused (.bufOutOfRange (s.cr.rxdPtr.toNat + s.cr.rxdAmount.toNat)))

/-- R190, R198 and R199: the engine steps only while ENABLE = 1; E-STOP puts the stop condition on the wire, generates
"stopped" and goes IDLE, where the engine has no step of its own and nothing leaves IDLE but the next trigger; a STALLED
engine has no step, ever: until a reset no event is generated, no counter changes, the wire gets nothing, and a sequencer
that polls without a limit stays in POLL. -/
def Obligations.StopAndStalled : Prop :=
  ∀ s : State,
    (s.cr.enable = true → s.eng = .stopping → engStep s = .next { s with
      wire := s.wire ++ [.stop], cr.eventsStopped := true, eng := .idle }) ∧
    (s.eng = .idle → engEnabled s = false ∧ engStep s = .next s) ∧
    (s.eng = .stalled → engEnabled s = false ∧ engStep s = .next s) ∧
    (s.cr.enable = false → engEnabled s = false ∧ engStep s = .next s) ∧
    (∀ t, s.eng = .idle → noReset s → step s = .next t → t.eng ≠ .idle → s.seq.pc = .trigger) ∧
    (∀ t, s.eng = .stalled → noReset s → step s = .next t →
      t.eng = .stalled ∧ t.wire = s.wire ∧ t.cr.txdAmount = s.cr.txdAmount ∧ t.cr.rxdAmount = s.cr.rxdAmount ∧
      (t.cr.eventsTxDone = true → s.cr.eventsTxDone = true) ∧
      (t.cr.eventsRxDone = true → s.cr.eventsRxDone = true) ∧
      (t.cr.eventsStopped = true → s.cr.eventsStopped = true) ∧
      (s.seq.pc = .poll → s.cr.eventsStopped = false → s.par.pollLimit = none → t.seq.pc = .poll))

/-- The engine's frame: an engine step leaves the sequencer, the descriptors, the shortcuts, the pins, the rate, ENABLE,
the port, the host, the schedule and the parameters; of BUF it changes at most the byte received. -/
def Obligations.EngineFrame : Prop :=
  ∀ s t : State, engStep s = .next t →
    t.seq = s.seq ∧ t.port = s.port ∧ t.host = s.host ∧ t.env = s.env ∧ t.par = s.par ∧
    (t.cr.shorts = s.cr.shorts ∧ t.cr.enable = s.cr.enable ∧ t.cr.pselScl = s.cr.pselScl ∧
      t.cr.pselSda = s.cr.pselSda ∧ t.cr.frequency = s.cr.frequency ∧ t.cr.address = s.cr.address ∧
      t.cr.txdPtr = s.cr.txdPtr ∧ t.cr.txdMaxcnt = s.cr.txdMaxcnt ∧ t.cr.rxdPtr = s.cr.rxdPtr ∧
      t.cr.rxdMaxcnt = s.cr.rxdMaxcnt) ∧
    (∀ a, s.eng ≠ .rxData ∨ a ≠ s.cr.rxdPtr.toNat + s.cr.rxdAmount.toNat → bufByte t a = bufByte s a)

/-- R201: with a device that is well-behaved for the device address asked (R79), oracle or simulated, a nominal read takes
seven engine steps and puts exactly the nominal symbols on the wire, where the byte read is the device's answer.

The two clauses that fix that answer are the model's choice and not R201's: DESIGN CHOICE, log 4. By them it is the answer
placed on the fourth question, else the oracle's free value or the simulated device's byte: the one at the register asked
(R80), or, where the acknowledgement of the register address is a placed one, which leaves the device as it is, the one at
its old pointer. The witness in the tests is the simulated device's only, since the oracle's answers are free values. -/
def Obligations.NominalReadTransaction : Prop :=
  ∀ (s : State) (dev : DevAddr) (reg : Byte), s.cr.enable = true → s.eng = .txAddr → 3 ≤ s.par.bufSize →
    s.cr.address = dev → s.dev.WellBehaved dev → bufByte s 0 = some reg → s.cr.shorts = 0b011#3 →
    s.cr.txdPtr = 0 → s.cr.txdMaxcnt = 1 → s.cr.txdAmount = 0 →
    s.cr.rxdPtr = 2 → s.cr.rxdMaxcnt = 1 → s.cr.rxdAmount = 0 →
    ∃ (v : Byte) (u : State), engRun 7 s = .next u ∧ u.wire = s.wire ++ readTrace dev reg v ∧
      (s.dev.kind = .simdev →
        (injectedRead s.dev (s.dev.asked + 4) dev).getD (.byte (storeByte s.dev
          (if injectedAck s.dev (s.dev.asked + 2) dev = none then reg else s.dev.simPtr))) = .byte v) ∧
      (s.dev.kind = .oracle →
        (injectedRead s.dev (s.dev.asked + 4) dev).getD (Config.freeRead (s.dev.asked + 4) dev) = .byte v) ∧
      u.cr.txdAmount = 1 ∧ u.cr.rxdAmount = 1 ∧ bufByte u 2 = some v ∧ u.cr.eventsTxDone = true ∧
      u.cr.eventsRxDone = true ∧ u.cr.eventsStopped = true ∧ u.eng = .idle

/-- R202: with a well-behaved device a nominal write takes five engine steps and puts exactly the nominal symbols on the
wire, the register address first. -/
def Obligations.NominalWriteTransaction : Prop :=
  ∀ (s : State) (dev : DevAddr) (reg data : Byte), s.cr.enable = true → s.eng = .txAddr → 3 ≤ s.par.bufSize →
    s.cr.address = dev → s.dev.WellBehaved dev → bufByte s 0 = some reg → bufByte s 1 = some data →
    s.cr.shorts = 0b100#3 → s.cr.txdPtr = 0 → s.cr.txdMaxcnt = 2 → s.cr.txdAmount = 0 → s.cr.rxdAmount = 0 →
    s.cr.eventsRxDone = false →
    ∃ u : State, engRun 5 s = .next u ∧ u.wire = s.wire ++ writeTrace dev reg data ∧
      u.cr.txdAmount = 2 ∧ u.cr.rxdAmount = 0 ∧ u.cr.eventsTxDone = true ∧ u.cr.eventsRxDone = false ∧
      u.cr.eventsStopped = true ∧ u.eng = .idle

/-- R200: an ABORT answer to any question sends the engine to STOPPING from where it stands; no byte is moved, the
counters and the phase's events stay, and E-STOP then ends the transaction normally. -/
def Obligations.AbortEndsTransaction : Prop :=
  ∀ s t : State, s.cr.enable = true → engStep s = .next t →
    ((s.eng = .txAddr ∧ (devAddrAck 0#1 s).1 = .abort) ∨
     (s.eng = .rxAddr ∧ (devAddrAck 1#1 s).1 = .abort) ∨
     (s.eng = .txData ∧ s.cr.txdAmount.toNat < s.cr.txdMaxcnt.toNat ∧ ∃ b q,
        bufByte s (s.cr.txdPtr.toNat + s.cr.txdAmount.toNat) = some b ∧
          devWriteByte s.cr.txdAmount.toNat b s = .next (.abort, q)) ∨
     (s.eng = .rxData ∧ s.cr.rxdAmount.toNat < s.cr.rxdMaxcnt.toNat ∧ ∃ q,
        devReadByte s.cr.rxdAmount.toNat s = .next (.abort, q))) →
    t.eng = .stopping ∧ t.cr = s.cr ∧ t.buf = s.buf ∧
      engStep t = .next { t with wire := t.wire ++ [.stop], cr.eventsStopped := true, eng := .idle }

/-! ### The simulated device -/

/-- R80: SIMDEV's answers, with no answer placed on the question, and the round trip: a byte written is read back in its
non-reserved bits, and every other byte of the store stays. -/
def Obligations.SimdevAnswers : Prop :=
  ∀ s : State, s.dev.kind = .simdev → injected s.dev.inject (s.dev.asked + 1) s.cr.address = none →
    (∀ rw, devAddrAck rw s =
      (if s.cr.address = s.dev.simAddr then .ack else .nack, { s with dev.asked := s.dev.asked + 1 })) ∧
    (∀ b, devWriteByte 0 b s = .next (.ack, { s with dev.asked := s.dev.asked + 1, dev.simPtr := b })) ∧
    devReadByte 0 s = .next (.byte (storeByte s.dev s.dev.simPtr), { s with dev.asked := s.dev.asked + 1 }) ∧
    (∀ b, memoriesWf s → ∃ q : State, devWriteByte 1 b s = .next (.ack, q) ∧
      storeByte q.dev s.dev.simPtr =
        (storeByte s.dev s.dev.simPtr &&& rsvdByte s.dev s.dev.simPtr) |||
          (b &&& ~~~(rsvdByte s.dev s.dev.simPtr)) ∧
      (∀ r, r ≠ s.dev.simPtr → storeByte q.dev r = storeByte s.dev r) ∧ q.dev.simPtr = s.dev.simPtr)

/-- The simulated store changes, outside a reset, only in an E-TXDATA step of the engine that sends the second payload
byte, and then only at the pointer. -/
def Obligations.SimStoreFrame : Prop :=
  ∀ s t : State, noReset s → step s = .next t →
    (t.dev.simStore = s.dev.simStore ∨
      (mover s = some .eng ∧ s.cr.enable = true ∧ s.eng = .txData ∧ s.cr.txdAmount = 1 ∧
        s.cr.txdAmount.toNat < s.cr.txdMaxcnt.toNat ∧ s.dev.kind = .simdev)) ∧
    (∀ r, r ≠ s.dev.simPtr → storeByte t.dev r = storeByte s.dev r)

/-! ### The fatal halt, the hang, reset -/

/-- R290, R292: the step that raises FAULT does nothing but the three writes of the fault record, and takes the word off the
command port where ACCEPT raised it: no response, no flag cleared, nothing saved, and no poll counted (the model's reading
of R234 and R290: DEDUCED, log 13). -/
def Obligations.FatalEntryFrame : Prop :=
  ∀ s t : State, seqStep s = .next t → s.seq.fault = false → t.seq.fault = true →
    t.seq.pc = .fatal ∧ t.seq.cause ≠ .none ∧ fatalOut t = true ∧ busy t = false ∧
    t = { s with
        port := t.port,
        seq.fault := true, seq.cause := t.seq.cause, seq.pc := .fatal } ∧
    (t.port = s.port ∨ s.seq.pc = .idle ∧ t.port = none)

/-- R291: at FATAL the sequencer has no step; whatever runs, `pc` stays FATAL, the cause stays, no command is taken and no
response is delivered, until a reset. -/
def Obligations.FatalAbsorbing : Prop :=
  ∀ (n : Nat) (s u : State), s.seq.pc = .fatal → noReset s → Sys2Proof.core.run n s = .next u →
    seqEnabled s = false ∧ u.seq.pc = .fatal ∧ u.seq.fault = s.seq.fault ∧ u.seq.cause = s.seq.cause ∧
      u.seq.resps = s.seq.resps ∧ (∀ w, s.port = some w → u.port = some w) ∧
      u.cr.enable = s.cr.enable ∧ u.cr.pselScl = s.cr.pselScl ∧ u.cr.pselSda = s.cr.pselSda

/-- R25: FAULT = 1 exactly when `pc` = FATAL; once set, neither FAULT nor CAUSE is changed by any step, and the reset event
clears both. -/
def Obligations.FaultRecordSticky : Prop :=
  ∀ s t : State, Inv s → step s = .next t →
    (t.seq.fault = true ↔ t.seq.pc = .fatal) ∧
    (s.seq.fault = true → noReset s → t.seq.fault = true ∧ t.seq.cause = s.seq.cause) ∧
    (resetEvent s).seq.fault = false ∧ (resetEvent s).seq.cause = .none

/-- R287, R323: with no poll limit a hang never ends. Every run without a reset goes on for ever in POLL: no fault, BUSY
stays 1, and no response is delivered. -/
def Obligations.HangNeverEnds : Prop :=
  ∀ (n : Nat) (s : State), hung s → s.par.pollLimit = none → noReset s →
    ∃ u : State, Sys2Proof.core.run n s = .next u ∧ hung u ∧ u.seq.fault = s.seq.fault ∧ busy u = true ∧
      u.seq.resps = s.seq.resps ∧ u.wire = s.wire

/-- R328: a transfer command issued while ENABLE = 0 is accepted, its trigger is ignored, and it hangs: nothing is put on
the wire. -/
def Obligations.DisabledTransferHangs : Prop :=
  ∀ (i : Instr) (s : State) (rest : List Turn),
    ((∃ d r, i = .regRead d r) ∨ (∃ d r b, i = .regWrite d r b) ∨ ∃ d r m b, i = .regWriteMask d r m b) →
    Inv s → s.seq.pc = .idle → s.cr.enable = false → s.env.sched = seqTurns 2 ++ rest →
    ∃ t u : State, exec i s = .next t ∧ Sys2Proof.core.run 2 t = .next u ∧ hung u ∧ u.eng = .idle ∧
      flagsClear u = true ∧ u.wire = s.wire ∧ u.seq.fault = false

/-- R161's last sentence, with F3 of spec/95_test_vectors.md: addressed to another device than the simulated one, every
transfer command hangs; its address byte is not acknowledged, nothing is moved and no stop condition is issued. -/
def Obligations.WrongDeviceHangs : Prop :=
  ∀ (i : Instr) (dev : DevAddr) (s : State) (rest : List Turn),
    ((∃ r, i = .regRead dev r) ∨ (∃ r b, i = .regWrite dev r b) ∨ ∃ r m b, i = .regWriteMask dev r m b) →
    Inv s → s.seq.pc = .idle → s.cr.enable = true → s.dev.kind = .simdev → s.dev.inject = [] →
    dev ≠ s.dev.simAddr → s.env.sched = seqTurns 2 ++ (.agent .eng :: rest) →
    ∃ t u : State, exec i s = .next t ∧ Sys2Proof.core.run 3 t = .next u ∧ hung u ∧ u.eng = .stalled ∧
      flagsClear u = true ∧ u.cr.txdAmount = 0 ∧ u.cr.rxdAmount = 0 ∧
      u.wire = s.wire ++ [.start, .sent (addressByte dev 0#1) .n] ∧ u.seq.fault = false ∧
      u.seq.resps = s.seq.resps ∧ (∀ r, storeByte u.dev r = storeByte s.dev r)

/-- R320: the reset event may occur in any state; it sets every element to which R44 gives a reset value, and is the way out
of FATAL, of a hang and of STALLED. The device is not reset: with the engine idle it keeps its state. -/
def Obligations.ResetEventFromAnyState : Prop :=
  ∀ (s : State) (rest : List Turn), s.env.sched = .reset :: rest →
    ∃ t : State, step s = .next t ∧ t.seq.pc = .idle ∧ t.seq.pollCnt = 0 ∧ t.seq.fault = false ∧
      t.seq.cause = .none ∧ t.seq.respValid = false ∧ flagsClear t = true ∧ t.cr.shorts = 0 ∧ t.cr.enable = false ∧
      pselIsBound t.cr.pselScl = false ∧ pselIsBound t.cr.pselSda = false ∧ t.cr.txdAmount = 0 ∧ t.cr.rxdAmount = 0 ∧
      t.eng = .idle ∧ t.wire = [] ∧ t.host.owner = .caller ∧ t.par = s.par ∧ t.env.sched = rest ∧
      (∀ a, bufByte t a = none) ∧ (s.eng = .idle → t.dev = s.dev)

/-- R321: the state after reset, in words, and that the block does nothing until HOST presents a command. -/
def Obligations.StateAfterReset : Prop :=
  State.reset.seq.pc = .idle ∧ busy State.reset = false ∧ State.reset.seq.fault = false ∧
  State.reset.cr.enable = false ∧ pselIsBound State.reset.cr.pselScl = false ∧
  pselIsBound State.reset.cr.pselSda = false ∧ flagsClear State.reset = true ∧ State.reset.cr.shorts = 0 ∧
  State.reset.cr.txdAmount = 0 ∧ State.reset.cr.rxdAmount = 0 ∧ State.reset.eng = .idle ∧ State.reset.wire = [] ∧
  State.reset.host.owner = .caller ∧ (∀ a, bufByte State.reset a = none) ∧ step State.reset = .next State.reset

/-! ### The invariant -/

/-- The invariant holds right after reset. -/
def Obligations.InvariantAtReset : Prop := Inv State.reset

/-- Every step keeps the invariant: memories in canonical form, FAULT exactly at FATAL, clean idle, a descriptor that fits
the transfer, an engine at rest outside the poll. -/
def Obligations.InvariantKeptByEveryStep : Prop := ∀ s t : State, Inv s → step s = .next t → Inv t

/-- From a state that meets the invariant no step faults, and the only refusal is ENABLE with equal pins: every other
corner the spec refuses is unreachable, and no BUF byte is read unwritten (R42, R204, R207). -/
def Obligations.OnlyEqualPinsStop : Prop :=
  ∀ s : State, Inv s → (∃ t, step s = .next t) ∨
    (step s = .refused .equalPins ∧ s.seq.pc = .idle ∧
      ∃ w a fast, s.port = some w ∧ decode s.par.pinCount w = .ok (.enable a a fast))

/-- R45, clean idle: in every reachable state with `pc` = IDLE all three event flags are 0 and the engine is IDLE, whatever
the host program, the device, the schedule and the resets. A launch state has any value in the registers R44 calls
unspecified, so nothing rests on the values of log 1. -/
def Obligations.CleanIdleWhenReachable : Prop :=
  ∀ s : State, Reachable s → s.seq.pc = .idle →
    s.cr.eventsTxDone = false ∧ s.cr.eventsRxDone = false ∧ s.cr.eventsStopped = false ∧ s.eng = .idle

/-- R46 with R234, one transaction at a time: the engine leaves IDLE only by the TRIGGER step, and the sequencer leaves POLL
only after the engine is back in IDLE, or fatally by a poll limit. -/
def Obligations.OneTransactionAtATime : Prop :=
  ∀ s t : State, Inv s → step s = .next t → noReset s →
    (s.eng = .idle → t.eng ≠ .idle → s.seq.pc = .trigger ∧ t.seq.pc = .poll) ∧
    (s.seq.pc = .poll → t.seq.pc ≠ .poll →
      (s.eng = .idle ∧ t.eng = .idle) ∨ (t.seq.pc = .fatal ∧ t.seq.cause = .pollTimeout ∧ s.par.pollLimit ≠ none))

/-- R82: once POLL reads "stopped" the engine makes no further write until the next trigger. -/
def Obligations.EngineAtRestOutsidePoll : Prop :=
  ∀ s : State, Inv s → s.seq.pc ≠ .fatal → (s.seq.pc = .poll → s.cr.eventsStopped = true) →
    s.eng = .idle ∧ engStep s = .next s

/-! ### Whole-machine frames -/

/-- R134: the pin selects, the rate and ENABLE change, outside a reset, only in a step that accepts ENABLE or DISABLE: the
sequencer's, at IDLE, which takes the word off the port. -/
def Obligations.ControlRegistersFrame : Prop :=
  ∀ s t : State, noReset s → step s = .next t →
    (t.cr.pselScl = s.cr.pselScl ∧ t.cr.pselSda = s.cr.pselSda ∧ t.cr.frequency = s.cr.frequency ∧
      t.cr.enable = s.cr.enable) ∨
    (mover s = some .seq ∧ s.seq.pc = .idle ∧ t.port = none ∧
      ∃ w i, s.port = some w ∧ decode s.par.pinCount w = .ok i ∧ (i = .disable ∨ ∃ a b fast, i = .enable a b fast))

/-- WIRE only grows, outside a reset, and only by a step of the engine, enabled then; the parameters never change. -/
def Obligations.WireGrowsByEngineOnly : Prop :=
  ∀ s t : State, noReset s → step s = .next t →
    t.par = s.par ∧ (∃ x, t.wire = s.wire ++ x) ∧ (t.wire ≠ s.wire → mover s = some .eng ∧ engEnabled s = true)

/-! ### HOST -/

/-- R130, R299: HOST presents a word only when BUSY = 0, FATAL_OUT = 0 and no response is due, and then waits; its steps
touch nothing of the block but the command port and the response's valid bit. A valid response is taken first: HOST keeps
its byte, its wait ends and RESP_VALID falls, with nothing else changed (R26; when RESP_VALID falls is the model's choice:
DESIGN CHOICE, logs 5 and 23). -/
def Obligations.HostPresentsWhenFree : Prop :=
  ∀ s : State,
    ((hostStep s).port ≠ s.port → busy s = false ∧ fatalOut s = false ∧ s.host.awaiting = false ∧
      (hostStep s).host.awaiting = true) ∧
    (hostStep s).cr = s.cr ∧ (hostStep s).buf = s.buf ∧ (hostStep s).eng = s.eng ∧ (hostStep s).wire = s.wire ∧
    (hostStep s).dev = s.dev ∧ (hostStep s).par = s.par ∧
    (hostStep s).seq = { s.seq with respValid := (hostStep s).seq.respValid } ∧
    (s.seq.respValid = true → s.host.halted = false → hostStep s = { s with
      seq.respValid := false, host.awaiting := false, host.lastResp := s.seq.respData })

/-- R286: an identity byte that differs halts HOST, not the block, and HOST takes no further step. -/
def Obligations.IdentityMismatchHaltsHost : Prop :=
  ∀ (s : State) (v : Byte) (rest : List HostAct), s.host.todo = .expect v :: rest → s.host.halted = false →
    s.host.awaiting = false → s.seq.respValid = false →
    (s.host.lastResp = v → hostStep s = { s with host.todo := rest }) ∧
    (s.host.lastResp ≠ v → hostStep s = { s with host.halted := true } ∧
      hostStep (hostStep s) = hostStep s)

/-! ### The PMIC Configuration Layer -/

/-- R252: the host shifts the code into place; a bit write is the masked write of all or none of the mask; for a one-bit
entry `bit_write(e, on)` equals `field_write(e, if on then 1 else 0)`. -/
def Obligations.FieldAndBitWrites : Prop :=
  ∀ (e : RMapEntry) (code : Byte) (on : Bool),
    fieldWrite e code = .regWriteMask e.dev e.reg e.mask (code <<< e.shift) ∧
    bitWrite e on = .regWriteMask e.dev e.reg e.mask (if on then e.mask else 0x00) ∧
    (e.oneBit = true → bitWrite e on = fieldWrite e (if on then 1 else 0))

/-- R253 to R264: each configuration operation is the one word of the field or bit write of its own entry, for every code
and switch; `new` takes OWNER to LAYER, presents ENABLE with the fixed pins in fast mode, with the identity check reads
the two identity registers and compares each response with its constant, and moves the layer to Configuring; `release`
presents DISABLE, moves the layer to Released and OWNER back to CALLER; a step of HOST does such a move and nothing else
(HOST as a list of acts is the model's: DESIGN CHOICE, log 5 and log 22); and the bring-up session presents one ENABLE,
two REG_READ, eight REG_WRITE_MASK in the document's order, to eight distinct registers where the map's entries share none
(R251; U10 accepts a map whose entries do), and one DISABLE. -/
def Obligations.BringUpSession : Prop :=
  ∀ p : Params,
    (∀ op : ConfigOp, expand p (.config op) = [.present (encode (match op with
      | .buck1v8Set => fieldWrite p.rmap.buckVout (p.code1v8.setWidth 8)
      | .buckbst3v3Set => fieldWrite p.rmap.buckbstVout p.code3v3
      | .buckbstEnable on => bitWrite p.rmap.buckbstEn on
      | .buckDischargeSet on => bitWrite p.rmap.buckDischg on
      | .vbusCurrentSet code => fieldWrite p.rmap.vbusIlim code
      | .chargerCurrentSet code => fieldWrite p.rmap.chgCurrent code
      | .ocChgCurrentSet code => fieldWrite p.rmap.ocChg code
      | .chargingEnable on => bitWrite p.rmap.chgEn on))]) ∧
    expand p .new =
      [.setOwner .layer, .present (encode (.enable p.pinSclFixed p.pinSdaFixed true))] ++
      (if p.idCheck then
        [.present (encode (.regRead p.pmicAddr p.regIdMfg)), .expect p.idMfgValue,
          .present (encode (.regRead p.pmicAddr p.regIdRev)), .expect p.idRevValue]
      else []) ++ [.setLayer .configuring] ∧
    expand p .release = [.present (encode .disable), .setLayer .released, .setOwner .caller] ∧
    wordsOf (expand p .new) = encode (.enable p.pinSclFixed p.pinSdaFixed true) ::
      (if p.idCheck then [encode (.regRead p.pmicAddr p.regIdMfg), encode (.regRead p.pmicAddr p.regIdRev)] else []) ∧
    (∀ op : ConfigOp, wordsOf (expand p (.config op)) = [encode (configCommand p op)]) ∧
    (∀ (s : State) (o : Owner) (l : LayerState) (rest : List HostAct),
      s.host.halted = false → s.host.awaiting = false → s.seq.respValid = false →
      (s.host.todo = .setOwner o :: rest → hostStep s = { s with host.owner := o, host.todo := rest }) ∧
      (s.host.todo = .setLayer l :: rest → hostStep s = { s with host.layer := l, host.todo := rest })) ∧
    (p.idCheck = true →
      wordsOf (session p bringUp) =
        [encode (.enable p.pinSclFixed p.pinSdaFixed true), encode (.regRead p.pmicAddr p.regIdMfg),
          encode (.regRead p.pmicAddr p.regIdRev), encode (fieldWrite p.rmap.buckVout (p.code1v8.setWidth 8)),
          encode (fieldWrite p.rmap.buckbstVout p.code3v3), encode (bitWrite p.rmap.buckbstEn true),
          encode (bitWrite p.rmap.buckDischg true), encode (fieldWrite p.rmap.vbusIlim 0x07),
          encode (fieldWrite p.rmap.chgCurrent 0x1F), encode (fieldWrite p.rmap.ocChg 0x07),
          encode (bitWrite p.rmap.chgEn true), encode .disable] ∧
      (wordsOf (session p bringUp)).map opField =
        [0x01, 0x03, 0x03, 0x05, 0x05, 0x05, 0x05, 0x05, 0x05, 0x05, 0x05, 0x02] ∧
      (p.rmap.distinctRegs = true →
        (((wordsOf (session p bringUp)).filter (fun w => opField w == 0x05)).map bField).Nodup))

/-! ### The controller register space -/

/-- R27, R28, R29, R71: TASKS_STARTTX reads as 0 and ignores a write of 0; writing 0 clears an event flag and a write of 1
is refused; the counters are read-only; an index 0x10 to 0xFF is refused. That a register can be accessed by its index,
though no step does it, is the model's reading: DEDUCED, log 21. -/
def Obligations.RegisterSpaceRules : Prop :=
  ∀ s : State,
    readCR s .tasksStartTx = 0#1 ∧ writeCR .tasksStartTx 0#1 s = .next s ∧
    writeCR .eventsTxDone 0#1 s = .next { s with cr.eventsTxDone := false } ∧
    writeCR .eventsRxDone 0#1 s = .next { s with cr.eventsRxDone := false } ∧
    writeCR .eventsStopped 0#1 s = .next { s with cr.eventsStopped := false } ∧
    writeCR .eventsTxDone 1#1 s = .refused .eventFlagWriteOne ∧
    writeCR .eventsRxDone 1#1 s = .refused .eventFlagWriteOne ∧
    writeCR .eventsStopped 1#1 s = .refused .eventFlagWriteOne ∧
    (∀ v, writeCR .txdAmount v s = .refused .readOnlyCounter ∧ writeCR .rxdAmount v s = .refused .readOnlyCounter) ∧
    (∀ (i : Byte) (v : BitVec 9), 0x10 ≤ i.toNat →
      readIndex i s = .refused (.unimplementedIndex i) ∧ writeIndex i v s = .refused (.unimplementedIndex i))

/-! ### Runs under weak fairness -/

/-- R208 with R12: along a weakly fair run without a reset an engine step that is enabled is eventually taken, however many
POLL steps and other turns come first. -/
def Obligations.FairRunTakesEngineStep : Prop :=
  ∀ (r : Nat → State) (n : Nat), IsRun r → WeaklyFair r → Inv (r 0) → noReset (r 0) → engEnabled (r n) = true →
    ∃ m, n ≤ m ∧ mover (r m) = some .eng ∧ engEnabled (r m) = true

/-- R208 with R12, R79 and R333: along every weakly fair run without a reset, a transfer that begins with ENABLE = 1, no poll
limit and a well-behaved device, oracle or simulated, ends: it delivers exactly one response, HOST, with nothing more to
present, takes it, and the run of the host program is over. A transfer that is no REG_READ responds 0x00. That RESP_VALID
falls when HOST takes the response is the model's choice: DESIGN CHOICE, log 23. HOST has no act left here, so the choice of
log 24 in `endOfRun` does not bear on it. -/
def Obligations.FairRunCompletesTransfer : Prop :=
  ∀ r : Nat → State, IsRun r → WeaklyFair r → Inv (r 0) → noReset (r 0) →
    (r 0).seq.pc = .setup → (r 0).cr.enable = true → (r 0).par.pollLimit = none →
    (r 0).dev.WellBehaved (r 0).seq.dev → (r 0).port = none → (r 0).seq.respValid = false →
    (r 0).host.todo = [] → (r 0).host.awaiting = true → (r 0).host.halted = false →
    ∃ (n : Nat) (d : Byte), endOfRun (r n) ∧ (r n).seq.resps = (r 0).seq.resps ++ [d] ∧
      (r n).host.lastResp = d ∧ ((r 0).seq.op ≠ 0x03 → d = 0x00)
end

