-- ==== Sys2Proof/Laws/Decode.lean ====
section
/-! SUPPORT. The small lemmas of the encoder and of a command word's fields. -/

namespace Sys2Proof

theorem toNat_append_eq {m n : Nat} (x : BitVec m) (y : BitVec n) : (x ++ y).toNat = x.toNat * 2 ^ n + y.toNat := by
  rw [BitVec.toNat_append, ← Nat.shiftLeft_add_eq_or_of_lt y.isLt, Nat.shiftLeft_eq]

theorem cmd40_toNat (op a b c d : Byte) :
    (cmd40 op a b c d).toNat =
      op.toNat * 2 ^ 32 + a.toNat * 2 ^ 24 + b.toNat * 2 ^ 16 + c.toNat * 2 ^ 8 + d.toNat := by
  unfold cmd40
  rw [toNat_append_eq, toNat_append_eq, toNat_append_eq, toNat_append_eq]
  omega

/-- A byte field of a word, as arithmetic on the word's number. -/
theorem extractByte_toNat (w : CmdWord) (k : Nat) : (w.extractLsb' k 8).toNat = w.toNat / 2 ^ k % 256 := by
  rw [BitVec.extractLsb'_toNat, Nat.shiftRight_eq_div_pow]

@[simp] theorem opField_cmd40 (op a b c d : Byte) : opField (cmd40 op a b c d) = op := by
  apply BitVec.eq_of_toNat_eq
  rw [opField, extractByte_toNat, cmd40_toNat]
  omega

@[simp] theorem aField_cmd40 (op a b c d : Byte) : aField (cmd40 op a b c d) = a := by
  apply BitVec.eq_of_toNat_eq
  rw [aField, extractByte_toNat, cmd40_toNat]
  omega

@[simp] theorem bField_cmd40 (op a b c d : Byte) : bField (cmd40 op a b c d) = b := by
  apply BitVec.eq_of_toNat_eq
  rw [bField, extractByte_toNat, cmd40_toNat]
  omega

@[simp] theorem cField_cmd40 (op a b c d : Byte) : cField (cmd40 op a b c d) = c := by
  apply BitVec.eq_of_toNat_eq
  rw [cField, extractByte_toNat, cmd40_toNat]
  omega

@[simp] theorem dField_cmd40 (op a b c d : Byte) : dField (cmd40 op a b c d) = d := by
  apply BitVec.eq_of_toNat_eq
  rw [dField, extractByte_toNat, cmd40_toNat]
  omega

/-- A word is made of its five fields. -/
theorem cmd40_fields (w : CmdWord) : cmd40 (opField w) (aField w) (bField w) (cField w) (dField w) = w := by
  apply BitVec.eq_of_toNat_eq
  have h := w.isLt
  rw [cmd40_toNat, opField, aField, bField, cField, dField]
  simp only [extractByte_toNat]
  omega

@[simp] theorem devByte_toNat (dev : DevAddr) : (devByte dev).toNat = dev.toNat := by
  rw [devByte, toNat_append_eq]
  simp

/-- The device address byte has its bit 7 clear and holds the address below it. -/
theorem devByte_msb (dev : DevAddr) : (devByte dev).getLsbD 7 = false := by
  have h := dev.isLt
  rw [BitVec.getLsbD, devByte_toNat, Nat.testBit_eq_decide_div_mod_eq]
  simp only [decide_eq_false_iff_not]
  omega

@[simp] theorem devByte_getElem (dev : DevAddr) : (devByte dev)[7] = false := devByte_msb dev

@[simp] theorem devByte_low (dev : DevAddr) : (devByte dev).extractLsb' 0 7 = dev := by
  apply BitVec.eq_of_toNat_eq
  have h := dev.isLt
  rw [BitVec.extractLsb'_toNat, devByte_toNat, Nat.shiftRight_eq_div_pow]
  omega

@[simp] theorem fastByte_reserved (fast : Bool) : (fastByte fast).extractLsb' 1 7 = 0 := by cases fast <;> decide

theorem fastByte_bit (fast : Bool) : (fastByte fast).getLsbD 0 = fast := by cases fast <;> decide

@[simp] theorem fastByte_getElem (fast : Bool) : (fastByte fast)[0] = fast := fastByte_bit fast

end Sys2Proof
end

