-- ==== Sys2Proof/Laws/Memory.lean ====
section
/-! SUPPORT. The laws of byte memories: a read after a write, and that every operation keeps the canonical form. -/

namespace Sys2Proof.Machine

theorem memLookup_memInsert_same (m : Memory) (a : Nat) (v : Byte) : memLookup (memInsert m a v) a = some v := by
  induction m with
  | nil => simp [memInsert, memLookup]
  | cons c m ih =>
    obtain ⟨k, x⟩ := c
    simp only [memInsert]
    split
    · simp [memLookup]
    · split
      · simp [memLookup]
      next hk => rw [memLookup, if_neg (fun e => hk e.symm), ih]

theorem memLookup_memInsert_other (m : Memory) (a b : Nat) (v : Byte) (h : b ≠ a) :
    memLookup (memInsert m a v) b = memLookup m b := by
  have h' : ¬a = b := fun e => h e.symm
  induction m with
  | nil => simp [memInsert, memLookup, h']
  | cons c m ih =>
    obtain ⟨k, x⟩ := c
    simp only [memInsert]
    split
    · simp [memLookup, h']
    · split
      next hk => subst hk; simp [memLookup, h']
      · simp only [memLookup, ih]

theorem memLookup_memErase_other (m : Memory) (a b : Nat) (h : b ≠ a) :
    memLookup (memErase m a) b = memLookup m b := by
  induction m with
  | nil => rfl
  | cons c m ih =>
    obtain ⟨k, x⟩ := c
    simp only [memErase]
    split
    · simp only [memLookup]; split <;> simp_all
    · simp only [memLookup, ih]

/-- Addresses after the head of a rising memory are above it. -/
theorem memSorted_above (k : Nat) (x : Byte) (m : Memory) (h : memSorted ((k, x) :: m) = true) :
    (∀ c ∈ m, k < c.1) ∧ memSorted m = true := by
  induction m generalizing k x with
  | nil => simp [memSorted]
  | cons c m ih =>
    obtain ⟨k', x'⟩ := c
    simp only [memSorted, Bool.and_eq_true, decide_eq_true_eq] at h
    have := ih k' x' h.2
    refine ⟨?_, h.2⟩
    intro c hc
    rcases List.mem_cons.1 hc with rfl | hc
    · exact h.1
    · exact Nat.lt_trans h.1 (this.1 c hc)

theorem memSorted_cons (k : Nat) (x : Byte) (m : Memory) (h : ∀ c ∈ m, k < c.1) (hm : memSorted m = true) :
    memSorted ((k, x) :: m) = true := by
  cases m with
  | nil => rfl
  | cons c m =>
    obtain ⟨k', x'⟩ := c
    simp only [memSorted, Bool.and_eq_true, decide_eq_true_eq]
    exact ⟨h (k', x') (by simp), hm⟩

theorem memLookup_eq_none (m : Memory) (a : Nat) (h : ∀ c ∈ m, a < c.1) : memLookup m a = none := by
  induction m with
  | nil => rfl
  | cons c m ih =>
    obtain ⟨k, x⟩ := c
    have hk : a < k := h (k, x) (by simp)
    rw [memLookup, if_neg (by omega)]
    exact ih fun c hc => h c (by simp [hc])

theorem memLookup_memErase_same (m : Memory) (a : Nat) (h : memSorted m = true) :
    memLookup (memErase m a) a = none := by
  induction m with
  | nil => rfl
  | cons c m ih =>
    obtain ⟨k, x⟩ := c
    have hs := memSorted_above k x m h
    simp only [memErase]
    split
    next hk => exact memLookup_eq_none m a (hk ▸ hs.1)
    next hk => rw [memLookup, if_neg hk]; exact ih hs.2

/-- A write leaves every other address alone. -/
theorem memRead_memWrite_other (u : Option Byte) (m : Memory) (a b : Nat) (v : Byte) (h : b ≠ a) :
    memRead u (memWrite u m a v) b = memRead u m b := by
  have hl : memLookup (memWrite u m a v) b = memLookup m b := by
    unfold memWrite
    split
    · exact memLookup_memErase_other m a b h
    · exact memLookup_memInsert_other m a b v h
  simp only [memRead, hl]

/-- A read after a write to the same address gives the value written. -/
theorem memRead_memWrite_same (u : Option Byte) (m : Memory) (a : Nat) (v : Byte) (h : memSorted m = true) :
    memRead u (memWrite u m a v) a = some v := by
  by_cases hu : u = some v
  · simp only [memRead, memWrite, if_pos hu, memLookup_memErase_same m a h]
    exact hu
  · simp only [memRead, memWrite, if_neg hu, memLookup_memInsert_same m a v]

theorem mem_memInsert (m : Memory) (a : Nat) (v : Byte) (c : Host.Cell) (h : c ∈ memInsert m a v) :
    c = (a, v) ∨ c ∈ m := by
  induction m with
  | nil => exact Or.inl (by simpa [memInsert] using h)
  | cons d m ih =>
    obtain ⟨k, x⟩ := d
    simp only [memInsert] at h
    split at h
    · simpa using h
    · split at h
      · rcases List.mem_cons.1 h with h | h <;> simp [h]
      · rcases List.mem_cons.1 h with h | h
        · simp [h]
        · rcases ih h with h | h <;> simp [h]

theorem mem_memErase (m : Memory) (a : Nat) (c : Host.Cell) (h : c ∈ memErase m a) : c ∈ m := by
  induction m with
  | nil => simp [memErase] at h
  | cons d m ih =>
    obtain ⟨k, x⟩ := d
    simp only [memErase] at h
    split at h
    · simp [h]
    · rcases List.mem_cons.1 h with h | h
      · simp [h]
      · simp [ih h]

theorem memSorted_memInsert (m : Memory) (a : Nat) (v : Byte) (h : memSorted m = true) :
    memSorted (memInsert m a v) = true := by
  induction m with
  | nil => rfl
  | cons d m ih =>
    obtain ⟨k, x⟩ := d
    have hs := memSorted_above k x m h
    simp only [memInsert]
    split
    next hak =>
      refine memSorted_cons _ _ _ ?_ h
      intro c hc
      rcases List.mem_cons.1 hc with rfl | hc
      · exact hak
      · exact Nat.lt_trans hak (hs.1 c hc)
    next hak =>
      split
      next hk => exact memSorted_cons _ _ _ (hk ▸ hs.1) hs.2
      next hk =>
        refine memSorted_cons _ _ _ ?_ (ih hs.2)
        intro c hc
        rcases mem_memInsert m a v c hc with rfl | hc
        · exact (Nat.lt_of_le_of_ne (Nat.not_lt.1 hak) (fun e => hk e.symm))
        · exact hs.1 c hc

theorem memSorted_memErase (m : Memory) (a : Nat) (h : memSorted m = true) : memSorted (memErase m a) = true := by
  induction m with
  | nil => rfl
  | cons d m ih =>
    obtain ⟨k, x⟩ := d
    have hs := memSorted_above k x m h
    simp only [memErase]
    split
    · exact hs.2
    · exact memSorted_cons _ _ _ (fun c hc => hs.1 c (mem_memErase m a c hc)) (ih hs.2)

theorem Memory.wf_iff (u : Option Byte) (n : Nat) (m : Memory) :
    Memory.wf u n m = true ↔ memSorted m = true ∧ ∀ c ∈ m, c.1 < n ∧ u ≠ some c.2 := by
  simp [Memory.wf, List.all_eq_true]

/-- A write within the address space keeps the canonical form. -/
theorem memWrite_wf (u : Option Byte) (n : Nat) (m : Memory) (a : Nat) (v : Byte) (h : Memory.wf u n m = true)
    (ha : a < n) : Memory.wf u n (memWrite u m a v) = true := by
  rw [Memory.wf_iff] at h ⊢
  unfold memWrite
  split
  next hu => exact ⟨memSorted_memErase m a h.1, fun c hc => h.2 c (mem_memErase m a c hc)⟩
  next hu =>
    refine ⟨memSorted_memInsert m a v h.1, fun c hc => ?_⟩
    rcases mem_memInsert m a v c hc with rfl | hc
    · exact ⟨ha, hu⟩
    · exact h.2 c hc

theorem wf_sorted {u : Option Byte} {n : Nat} {m : Memory} (h : Memory.wf u n m = true) : memSorted m = true :=
  ((Memory.wf_iff u n m).1 h).1

/-- Reset memory lists nothing and is in canonical form. -/
theorem wf_nil (u : Option Byte) (n : Nat) : Memory.wf u n [] = true := rfl

theorem storeByte_storeWrite_other (d : Device) (r q v : Byte) (h : q ≠ r) :
    storeByte (storeWrite r v d) q = storeByte d q := by
  unfold storeByte storeWrite
  rw [memRead_memWrite_other]
  intro e
  exact h (BitVec.eq_of_toNat_eq e)

theorem storeByte_storeWrite_same (d : Device) (r v : Byte) (h : memSorted d.simStore = true) :
    storeByte (storeWrite r v d) r = v := by
  unfold storeByte storeWrite
  rw [memRead_memWrite_same _ _ _ _ h]
  rfl

theorem storeWrite_wf (d : Device) (r v : Byte) (h : Memory.wf storeUnlisted 256 d.simStore = true) :
    Memory.wf storeUnlisted 256 (storeWrite r v d).simStore = true :=
  memWrite_wf _ _ _ _ _ h r.isLt

end Sys2Proof.Machine
end

