-- ==== Sys2Proof/Laws/State.lean ====
section
/-! SUPPORT. One lemma per field for each named update of State, so that no later proof unfolds a record update. -/

namespace Sys2Proof.Machine

@[simp] theorem setPc_seq_op (p : Phase) (s : State) : (setPc p s).seq.op = s.seq.op := rfl
@[simp] theorem setPc_seq_dev (p : Phase) (s : State) : (setPc p s).seq.dev = s.seq.dev := rfl
@[simp] theorem setPc_seq_reg (p : Phase) (s : State) : (setPc p s).seq.reg = s.seq.reg := rfl
@[simp] theorem setPc_seq_mask (p : Phase) (s : State) : (setPc p s).seq.mask = s.seq.mask := rfl
@[simp] theorem setPc_seq_data (p : Phase) (s : State) : (setPc p s).seq.data = s.seq.data := rfl
@[simp] theorem setPc_seq_tmp (p : Phase) (s : State) : (setPc p s).seq.tmp = s.seq.tmp := rfl
@[simp] theorem setPc_seq_pc (p : Phase) (s : State) : (setPc p s).seq.pc = p := rfl
@[simp] theorem setPc_seq_xfer (p : Phase) (s : State) : (setPc p s).seq.xfer = s.seq.xfer := rfl
@[simp] theorem setPc_seq_pollCnt (p : Phase) (s : State) : (setPc p s).seq.pollCnt = s.seq.pollCnt := rfl
@[simp] theorem setPc_seq_fault (p : Phase) (s : State) : (setPc p s).seq.fault = s.seq.fault := rfl
@[simp] theorem setPc_seq_cause (p : Phase) (s : State) : (setPc p s).seq.cause = s.seq.cause := rfl
@[simp] theorem setPc_seq_respValid (p : Phase) (s : State) : (setPc p s).seq.respValid = s.seq.respValid := rfl
@[simp] theorem setPc_seq_respData (p : Phase) (s : State) : (setPc p s).seq.respData = s.seq.respData := rfl
@[simp] theorem setPc_seq_resps (p : Phase) (s : State) : (setPc p s).seq.resps = s.seq.resps := rfl
@[simp] theorem setPc_cr (p : Phase) (s : State) : (setPc p s).cr = s.cr := rfl
@[simp] theorem setPc_buf (p : Phase) (s : State) : (setPc p s).buf = s.buf := rfl
@[simp] theorem setPc_eng (p : Phase) (s : State) : (setPc p s).eng = s.eng := rfl
@[simp] theorem setPc_wire (p : Phase) (s : State) : (setPc p s).wire = s.wire := rfl
@[simp] theorem setPc_port (p : Phase) (s : State) : (setPc p s).port = s.port := rfl
@[simp] theorem setPc_dev (p : Phase) (s : State) : (setPc p s).dev = s.dev := rfl
@[simp] theorem setPc_host (p : Phase) (s : State) : (setPc p s).host = s.host := rfl
@[simp] theorem setPc_env (p : Phase) (s : State) : (setPc p s).env = s.env := rfl
@[simp] theorem setPc_par (p : Phase) (s : State) : (setPc p s).par = s.par := rfl

@[simp] theorem setEng_seq (e : EngPhase) (s : State) : (setEng e s).seq = s.seq := rfl
@[simp] theorem setEng_cr (e : EngPhase) (s : State) : (setEng e s).cr = s.cr := rfl
@[simp] theorem setEng_buf (e : EngPhase) (s : State) : (setEng e s).buf = s.buf := rfl
@[simp] theorem setEng_eng (e : EngPhase) (s : State) : (setEng e s).eng = e := rfl
@[simp] theorem setEng_wire (e : EngPhase) (s : State) : (setEng e s).wire = s.wire := rfl
@[simp] theorem setEng_port (e : EngPhase) (s : State) : (setEng e s).port = s.port := rfl
@[simp] theorem setEng_dev (e : EngPhase) (s : State) : (setEng e s).dev = s.dev := rfl
@[simp] theorem setEng_host (e : EngPhase) (s : State) : (setEng e s).host = s.host := rfl
@[simp] theorem setEng_env (e : EngPhase) (s : State) : (setEng e s).env = s.env := rfl
@[simp] theorem setEng_par (e : EngPhase) (s : State) : (setEng e s).par = s.par := rfl

@[simp] theorem emit_seq (x : Sym) (s : State) : (emit x s).seq = s.seq := rfl
@[simp] theorem emit_cr (x : Sym) (s : State) : (emit x s).cr = s.cr := rfl
@[simp] theorem emit_buf (x : Sym) (s : State) : (emit x s).buf = s.buf := rfl
@[simp] theorem emit_eng (x : Sym) (s : State) : (emit x s).eng = s.eng := rfl
@[simp] theorem emit_wire (x : Sym) (s : State) : (emit x s).wire = s.wire ++ [x] := rfl
@[simp] theorem emit_port (x : Sym) (s : State) : (emit x s).port = s.port := rfl
@[simp] theorem emit_dev (x : Sym) (s : State) : (emit x s).dev = s.dev := rfl
@[simp] theorem emit_host (x : Sym) (s : State) : (emit x s).host = s.host := rfl
@[simp] theorem emit_env (x : Sym) (s : State) : (emit x s).env = s.env := rfl
@[simp] theorem emit_par (x : Sym) (s : State) : (emit x s).par = s.par := rfl

@[simp] theorem respond_seq_op (d : Byte) (s : State) : (respond d s).seq.op = s.seq.op := rfl
@[simp] theorem respond_seq_dev (d : Byte) (s : State) : (respond d s).seq.dev = s.seq.dev := rfl
@[simp] theorem respond_seq_reg (d : Byte) (s : State) : (respond d s).seq.reg = s.seq.reg := rfl
@[simp] theorem respond_seq_mask (d : Byte) (s : State) : (respond d s).seq.mask = s.seq.mask := rfl
@[simp] theorem respond_seq_data (d : Byte) (s : State) : (respond d s).seq.data = s.seq.data := rfl
@[simp] theorem respond_seq_tmp (d : Byte) (s : State) : (respond d s).seq.tmp = s.seq.tmp := rfl
@[simp] theorem respond_seq_pc (d : Byte) (s : State) : (respond d s).seq.pc = s.seq.pc := rfl
@[simp] theorem respond_seq_xfer (d : Byte) (s : State) : (respond d s).seq.xfer = s.seq.xfer := rfl
@[simp] theorem respond_seq_pollCnt (d : Byte) (s : State) : (respond d s).seq.pollCnt = s.seq.pollCnt := rfl
@[simp] theorem respond_seq_fault (d : Byte) (s : State) : (respond d s).seq.fault = s.seq.fault := rfl
@[simp] theorem respond_seq_cause (d : Byte) (s : State) : (respond d s).seq.cause = s.seq.cause := rfl
@[simp] theorem respond_seq_respValid (d : Byte) (s : State) : (respond d s).seq.respValid = true := rfl
@[simp] theorem respond_seq_respData (d : Byte) (s : State) : (respond d s).seq.respData = d := rfl
@[simp] theorem respond_seq_resps (d : Byte) (s : State) : (respond d s).seq.resps = s.seq.resps ++ [d] := rfl
@[simp] theorem respond_cr (d : Byte) (s : State) : (respond d s).cr = s.cr := rfl
@[simp] theorem respond_buf (d : Byte) (s : State) : (respond d s).buf = s.buf := rfl
@[simp] theorem respond_eng (d : Byte) (s : State) : (respond d s).eng = s.eng := rfl
@[simp] theorem respond_wire (d : Byte) (s : State) : (respond d s).wire = s.wire := rfl
@[simp] theorem respond_port (d : Byte) (s : State) : (respond d s).port = s.port := rfl
@[simp] theorem respond_dev (d : Byte) (s : State) : (respond d s).dev = s.dev := rfl
@[simp] theorem respond_host (d : Byte) (s : State) : (respond d s).host = s.host := rfl
@[simp] theorem respond_env (d : Byte) (s : State) : (respond d s).env = s.env := rfl
@[simp] theorem respond_par (d : Byte) (s : State) : (respond d s).par = s.par := rfl

@[simp] theorem endCommand_seq_op (d : Byte) (s : State) : (endCommand d s).seq.op = s.seq.op := rfl
@[simp] theorem endCommand_seq_dev (d : Byte) (s : State) : (endCommand d s).seq.dev = s.seq.dev := rfl
@[simp] theorem endCommand_seq_reg (d : Byte) (s : State) : (endCommand d s).seq.reg = s.seq.reg := rfl
@[simp] theorem endCommand_seq_mask (d : Byte) (s : State) : (endCommand d s).seq.mask = s.seq.mask := rfl
@[simp] theorem endCommand_seq_data (d : Byte) (s : State) : (endCommand d s).seq.data = s.seq.data := rfl
@[simp] theorem endCommand_seq_tmp (d : Byte) (s : State) : (endCommand d s).seq.tmp = s.seq.tmp := rfl
@[simp] theorem endCommand_seq_pc (d : Byte) (s : State) : (endCommand d s).seq.pc = .idle := rfl
@[simp] theorem endCommand_seq_xfer (d : Byte) (s : State) : (endCommand d s).seq.xfer = s.seq.xfer := rfl
@[simp] theorem endCommand_seq_pollCnt (d : Byte) (s : State) : (endCommand d s).seq.pollCnt = s.seq.pollCnt := rfl
@[simp] theorem endCommand_seq_fault (d : Byte) (s : State) : (endCommand d s).seq.fault = s.seq.fault := rfl
@[simp] theorem endCommand_seq_cause (d : Byte) (s : State) : (endCommand d s).seq.cause = s.seq.cause := rfl
@[simp] theorem endCommand_seq_respValid (d : Byte) (s : State) : (endCommand d s).seq.respValid = true := rfl
@[simp] theorem endCommand_seq_respData (d : Byte) (s : State) : (endCommand d s).seq.respData = d := rfl
@[simp] theorem endCommand_seq_resps (d : Byte) (s : State) : (endCommand d s).seq.resps = s.seq.resps ++ [d] := rfl
@[simp] theorem endCommand_cr (d : Byte) (s : State) : (endCommand d s).cr = s.cr := rfl
@[simp] theorem endCommand_buf (d : Byte) (s : State) : (endCommand d s).buf = s.buf := rfl
@[simp] theorem endCommand_eng (d : Byte) (s : State) : (endCommand d s).eng = s.eng := rfl
@[simp] theorem endCommand_wire (d : Byte) (s : State) : (endCommand d s).wire = s.wire := rfl
@[simp] theorem endCommand_port (d : Byte) (s : State) : (endCommand d s).port = s.port := rfl
@[simp] theorem endCommand_dev (d : Byte) (s : State) : (endCommand d s).dev = s.dev := rfl
@[simp] theorem endCommand_host (d : Byte) (s : State) : (endCommand d s).host = s.host := rfl
@[simp] theorem endCommand_env (d : Byte) (s : State) : (endCommand d s).env = s.env := rfl
@[simp] theorem endCommand_par (d : Byte) (s : State) : (endCommand d s).par = s.par := rfl

@[simp] theorem raiseFatal_seq_op (c : Cause) (s : State) : (raiseFatal c s).seq.op = s.seq.op := rfl
@[simp] theorem raiseFatal_seq_dev (c : Cause) (s : State) : (raiseFatal c s).seq.dev = s.seq.dev := rfl
@[simp] theorem raiseFatal_seq_reg (c : Cause) (s : State) : (raiseFatal c s).seq.reg = s.seq.reg := rfl
@[simp] theorem raiseFatal_seq_mask (c : Cause) (s : State) : (raiseFatal c s).seq.mask = s.seq.mask := rfl
@[simp] theorem raiseFatal_seq_data (c : Cause) (s : State) : (raiseFatal c s).seq.data = s.seq.data := rfl
@[simp] theorem raiseFatal_seq_tmp (c : Cause) (s : State) : (raiseFatal c s).seq.tmp = s.seq.tmp := rfl
@[simp] theorem raiseFatal_seq_pc (c : Cause) (s : State) : (raiseFatal c s).seq.pc = .fatal := rfl
@[simp] theorem raiseFatal_seq_xfer (c : Cause) (s : State) : (raiseFatal c s).seq.xfer = s.seq.xfer := rfl
@[simp] theorem raiseFatal_seq_pollCnt (c : Cause) (s : State) : (raiseFatal c s).seq.pollCnt = s.seq.pollCnt := rfl
@[simp] theorem raiseFatal_seq_fault (c : Cause) (s : State) : (raiseFatal c s).seq.fault = true := rfl
@[simp] theorem raiseFatal_seq_cause (c : Cause) (s : State) : (raiseFatal c s).seq.cause = c := rfl
@[simp] theorem raiseFatal_seq_respValid (c : Cause) (s : State) : (raiseFatal c s).seq.respValid = s.seq.respValid := rfl
@[simp] theorem raiseFatal_seq_respData (c : Cause) (s : State) : (raiseFatal c s).seq.respData = s.seq.respData := rfl
@[simp] theorem raiseFatal_seq_resps (c : Cause) (s : State) : (raiseFatal c s).seq.resps = s.seq.resps := rfl
@[simp] theorem raiseFatal_cr (c : Cause) (s : State) : (raiseFatal c s).cr = s.cr := rfl
@[simp] theorem raiseFatal_buf (c : Cause) (s : State) : (raiseFatal c s).buf = s.buf := rfl
@[simp] theorem raiseFatal_eng (c : Cause) (s : State) : (raiseFatal c s).eng = s.eng := rfl
@[simp] theorem raiseFatal_wire (c : Cause) (s : State) : (raiseFatal c s).wire = s.wire := rfl
@[simp] theorem raiseFatal_port (c : Cause) (s : State) : (raiseFatal c s).port = s.port := rfl
@[simp] theorem raiseFatal_dev (c : Cause) (s : State) : (raiseFatal c s).dev = s.dev := rfl
@[simp] theorem raiseFatal_host (c : Cause) (s : State) : (raiseFatal c s).host = s.host := rfl
@[simp] theorem raiseFatal_env (c : Cause) (s : State) : (raiseFatal c s).env = s.env := rfl
@[simp] theorem raiseFatal_par (c : Cause) (s : State) : (raiseFatal c s).par = s.par := rfl

@[simp] theorem generateTxDone_seq (s : State) : (generateTxDone s).seq = s.seq := rfl
@[simp] theorem generateTxDone_cr_eventsTxDone (s : State) : (generateTxDone s).cr.eventsTxDone = true := rfl
@[simp] theorem generateTxDone_cr_eventsRxDone (s : State) : (generateTxDone s).cr.eventsRxDone = s.cr.eventsRxDone := rfl
@[simp] theorem generateTxDone_cr_eventsStopped (s : State) : (generateTxDone s).cr.eventsStopped = s.cr.eventsStopped := rfl
@[simp] theorem generateTxDone_cr_shorts (s : State) : (generateTxDone s).cr.shorts = s.cr.shorts := rfl
@[simp] theorem generateTxDone_cr_enable (s : State) : (generateTxDone s).cr.enable = s.cr.enable := rfl
@[simp] theorem generateTxDone_cr_pselScl (s : State) : (generateTxDone s).cr.pselScl = s.cr.pselScl := rfl
@[simp] theorem generateTxDone_cr_pselSda (s : State) : (generateTxDone s).cr.pselSda = s.cr.pselSda := rfl
@[simp] theorem generateTxDone_cr_frequency (s : State) : (generateTxDone s).cr.frequency = s.cr.frequency := rfl
@[simp] theorem generateTxDone_cr_address (s : State) : (generateTxDone s).cr.address = s.cr.address := rfl
@[simp] theorem generateTxDone_cr_txdPtr (s : State) : (generateTxDone s).cr.txdPtr = s.cr.txdPtr := rfl
@[simp] theorem generateTxDone_cr_txdMaxcnt (s : State) : (generateTxDone s).cr.txdMaxcnt = s.cr.txdMaxcnt := rfl
@[simp] theorem generateTxDone_cr_txdAmount (s : State) : (generateTxDone s).cr.txdAmount = s.cr.txdAmount := rfl
@[simp] theorem generateTxDone_cr_rxdPtr (s : State) : (generateTxDone s).cr.rxdPtr = s.cr.rxdPtr := rfl
@[simp] theorem generateTxDone_cr_rxdMaxcnt (s : State) : (generateTxDone s).cr.rxdMaxcnt = s.cr.rxdMaxcnt := rfl
@[simp] theorem generateTxDone_cr_rxdAmount (s : State) : (generateTxDone s).cr.rxdAmount = s.cr.rxdAmount := rfl
@[simp] theorem generateTxDone_buf (s : State) : (generateTxDone s).buf = s.buf := rfl
@[simp] theorem generateTxDone_eng (s : State) : (generateTxDone s).eng = s.eng := rfl
@[simp] theorem generateTxDone_wire (s : State) : (generateTxDone s).wire = s.wire := rfl
@[simp] theorem generateTxDone_port (s : State) : (generateTxDone s).port = s.port := rfl
@[simp] theorem generateTxDone_dev (s : State) : (generateTxDone s).dev = s.dev := rfl
@[simp] theorem generateTxDone_host (s : State) : (generateTxDone s).host = s.host := rfl
@[simp] theorem generateTxDone_env (s : State) : (generateTxDone s).env = s.env := rfl
@[simp] theorem generateTxDone_par (s : State) : (generateTxDone s).par = s.par := rfl

@[simp] theorem generateRxDone_seq (s : State) : (generateRxDone s).seq = s.seq := rfl
@[simp] theorem generateRxDone_cr_eventsTxDone (s : State) : (generateRxDone s).cr.eventsTxDone = s.cr.eventsTxDone := rfl
@[simp] theorem generateRxDone_cr_eventsRxDone (s : State) : (generateRxDone s).cr.eventsRxDone = true := rfl
@[simp] theorem generateRxDone_cr_eventsStopped (s : State) : (generateRxDone s).cr.eventsStopped = s.cr.eventsStopped := rfl
@[simp] theorem generateRxDone_cr_shorts (s : State) : (generateRxDone s).cr.shorts = s.cr.shorts := rfl
@[simp] theorem generateRxDone_cr_enable (s : State) : (generateRxDone s).cr.enable = s.cr.enable := rfl
@[simp] theorem generateRxDone_cr_pselScl (s : State) : (generateRxDone s).cr.pselScl = s.cr.pselScl := rfl
@[simp] theorem generateRxDone_cr_pselSda (s : State) : (generateRxDone s).cr.pselSda = s.cr.pselSda := rfl
@[simp] theorem generateRxDone_cr_frequency (s : State) : (generateRxDone s).cr.frequency = s.cr.frequency := rfl
@[simp] theorem generateRxDone_cr_address (s : State) : (generateRxDone s).cr.address = s.cr.address := rfl
@[simp] theorem generateRxDone_cr_txdPtr (s : State) : (generateRxDone s).cr.txdPtr = s.cr.txdPtr := rfl
@[simp] theorem generateRxDone_cr_txdMaxcnt (s : State) : (generateRxDone s).cr.txdMaxcnt = s.cr.txdMaxcnt := rfl
@[simp] theorem generateRxDone_cr_txdAmount (s : State) : (generateRxDone s).cr.txdAmount = s.cr.txdAmount := rfl
@[simp] theorem generateRxDone_cr_rxdPtr (s : State) : (generateRxDone s).cr.rxdPtr = s.cr.rxdPtr := rfl
@[simp] theorem generateRxDone_cr_rxdMaxcnt (s : State) : (generateRxDone s).cr.rxdMaxcnt = s.cr.rxdMaxcnt := rfl
@[simp] theorem generateRxDone_cr_rxdAmount (s : State) : (generateRxDone s).cr.rxdAmount = s.cr.rxdAmount := rfl
@[simp] theorem generateRxDone_buf (s : State) : (generateRxDone s).buf = s.buf := rfl
@[simp] theorem generateRxDone_eng (s : State) : (generateRxDone s).eng = s.eng := rfl
@[simp] theorem generateRxDone_wire (s : State) : (generateRxDone s).wire = s.wire := rfl
@[simp] theorem generateRxDone_port (s : State) : (generateRxDone s).port = s.port := rfl
@[simp] theorem generateRxDone_dev (s : State) : (generateRxDone s).dev = s.dev := rfl
@[simp] theorem generateRxDone_host (s : State) : (generateRxDone s).host = s.host := rfl
@[simp] theorem generateRxDone_env (s : State) : (generateRxDone s).env = s.env := rfl
@[simp] theorem generateRxDone_par (s : State) : (generateRxDone s).par = s.par := rfl

@[simp] theorem generateStopped_seq (s : State) : (generateStopped s).seq = s.seq := rfl
@[simp] theorem generateStopped_cr_eventsTxDone (s : State) : (generateStopped s).cr.eventsTxDone = s.cr.eventsTxDone := rfl
@[simp] theorem generateStopped_cr_eventsRxDone (s : State) : (generateStopped s).cr.eventsRxDone = s.cr.eventsRxDone := rfl
@[simp] theorem generateStopped_cr_eventsStopped (s : State) : (generateStopped s).cr.eventsStopped = true := rfl
@[simp] theorem generateStopped_cr_shorts (s : State) : (generateStopped s).cr.shorts = s.cr.shorts := rfl
@[simp] theorem generateStopped_cr_enable (s : State) : (generateStopped s).cr.enable = s.cr.enable := rfl
@[simp] theorem generateStopped_cr_pselScl (s : State) : (generateStopped s).cr.pselScl = s.cr.pselScl := rfl
@[simp] theorem generateStopped_cr_pselSda (s : State) : (generateStopped s).cr.pselSda = s.cr.pselSda := rfl
@[simp] theorem generateStopped_cr_frequency (s : State) : (generateStopped s).cr.frequency = s.cr.frequency := rfl
@[simp] theorem generateStopped_cr_address (s : State) : (generateStopped s).cr.address = s.cr.address := rfl
@[simp] theorem generateStopped_cr_txdPtr (s : State) : (generateStopped s).cr.txdPtr = s.cr.txdPtr := rfl
@[simp] theorem generateStopped_cr_txdMaxcnt (s : State) : (generateStopped s).cr.txdMaxcnt = s.cr.txdMaxcnt := rfl
@[simp] theorem generateStopped_cr_txdAmount (s : State) : (generateStopped s).cr.txdAmount = s.cr.txdAmount := rfl
@[simp] theorem generateStopped_cr_rxdPtr (s : State) : (generateStopped s).cr.rxdPtr = s.cr.rxdPtr := rfl
@[simp] theorem generateStopped_cr_rxdMaxcnt (s : State) : (generateStopped s).cr.rxdMaxcnt = s.cr.rxdMaxcnt := rfl
@[simp] theorem generateStopped_cr_rxdAmount (s : State) : (generateStopped s).cr.rxdAmount = s.cr.rxdAmount := rfl
@[simp] theorem generateStopped_buf (s : State) : (generateStopped s).buf = s.buf := rfl
@[simp] theorem generateStopped_eng (s : State) : (generateStopped s).eng = s.eng := rfl
@[simp] theorem generateStopped_wire (s : State) : (generateStopped s).wire = s.wire := rfl
@[simp] theorem generateStopped_port (s : State) : (generateStopped s).port = s.port := rfl
@[simp] theorem generateStopped_dev (s : State) : (generateStopped s).dev = s.dev := rfl
@[simp] theorem generateStopped_host (s : State) : (generateStopped s).host = s.host := rfl
@[simp] theorem generateStopped_env (s : State) : (generateStopped s).env = s.env := rfl
@[simp] theorem generateStopped_par (s : State) : (generateStopped s).par = s.par := rfl

@[simp] theorem takePort_seq (s : State) : (takePort s).seq = s.seq := rfl
@[simp] theorem takePort_cr (s : State) : (takePort s).cr = s.cr := rfl
@[simp] theorem takePort_buf (s : State) : (takePort s).buf = s.buf := rfl
@[simp] theorem takePort_eng (s : State) : (takePort s).eng = s.eng := rfl
@[simp] theorem takePort_wire (s : State) : (takePort s).wire = s.wire := rfl
@[simp] theorem takePort_port (s : State) : (takePort s).port = none := rfl
@[simp] theorem takePort_dev (s : State) : (takePort s).dev = s.dev := rfl
@[simp] theorem takePort_host (s : State) : (takePort s).host = s.host := rfl
@[simp] theorem takePort_env (s : State) : (takePort s).env = s.env := rfl
@[simp] theorem takePort_par (s : State) : (takePort s).par = s.par := rfl

@[simp] theorem dropTurn_seq (s : State) : (dropTurn s).seq = s.seq := rfl
@[simp] theorem dropTurn_cr (s : State) : (dropTurn s).cr = s.cr := rfl
@[simp] theorem dropTurn_buf (s : State) : (dropTurn s).buf = s.buf := rfl
@[simp] theorem dropTurn_eng (s : State) : (dropTurn s).eng = s.eng := rfl
@[simp] theorem dropTurn_wire (s : State) : (dropTurn s).wire = s.wire := rfl
@[simp] theorem dropTurn_port (s : State) : (dropTurn s).port = s.port := rfl
@[simp] theorem dropTurn_dev (s : State) : (dropTurn s).dev = s.dev := rfl
@[simp] theorem dropTurn_host (s : State) : (dropTurn s).host = s.host := rfl
@[simp] theorem dropTurn_env_sched (s : State) : (dropTurn s).env.sched = s.env.sched.tail := rfl
@[simp] theorem dropTurn_env_draws (s : State) : (dropTurn s).env.draws = s.env.draws := rfl
@[simp] theorem dropTurn_par (s : State) : (dropTurn s).par = s.par := rfl

@[simp] theorem countDraw_seq (s : State) : (countDraw s).seq = s.seq := rfl
@[simp] theorem countDraw_cr (s : State) : (countDraw s).cr = s.cr := rfl
@[simp] theorem countDraw_buf (s : State) : (countDraw s).buf = s.buf := rfl
@[simp] theorem countDraw_eng (s : State) : (countDraw s).eng = s.eng := rfl
@[simp] theorem countDraw_wire (s : State) : (countDraw s).wire = s.wire := rfl
@[simp] theorem countDraw_port (s : State) : (countDraw s).port = s.port := rfl
@[simp] theorem countDraw_dev (s : State) : (countDraw s).dev = s.dev := rfl
@[simp] theorem countDraw_host (s : State) : (countDraw s).host = s.host := rfl
@[simp] theorem countDraw_env_sched (s : State) : (countDraw s).env.sched = s.env.sched := rfl
@[simp] theorem countDraw_env_draws (s : State) : (countDraw s).env.draws = s.env.draws + 1 := rfl
@[simp] theorem countDraw_par (s : State) : (countDraw s).par = s.par := rfl

@[simp] theorem latchTransfer_seq_op (op : Byte) (dev : DevAddr) (reg mask data : Byte) (xfer : Xfer) (s : State) : (latchTransfer op dev reg mask data xfer s).seq.op = op := rfl
@[simp] theorem latchTransfer_seq_dev (op : Byte) (dev : DevAddr) (reg mask data : Byte) (xfer : Xfer) (s : State) : (latchTransfer op dev reg mask data xfer s).seq.dev = dev := rfl
@[simp] theorem latchTransfer_seq_reg (op : Byte) (dev : DevAddr) (reg mask data : Byte) (xfer : Xfer) (s : State) : (latchTransfer op dev reg mask data xfer s).seq.reg = reg := rfl
@[simp] theorem latchTransfer_seq_mask (op : Byte) (dev : DevAddr) (reg mask data : Byte) (xfer : Xfer) (s : State) : (latchTransfer op dev reg mask data xfer s).seq.mask = mask := rfl
@[simp] theorem latchTransfer_seq_data (op : Byte) (dev : DevAddr) (reg mask data : Byte) (xfer : Xfer) (s : State) : (latchTransfer op dev reg mask data xfer s).seq.data = data := rfl
@[simp] theorem latchTransfer_seq_tmp (op : Byte) (dev : DevAddr) (reg mask data : Byte) (xfer : Xfer) (s : State) : (latchTransfer op dev reg mask data xfer s).seq.tmp = s.seq.tmp := rfl
@[simp] theorem latchTransfer_seq_pc (op : Byte) (dev : DevAddr) (reg mask data : Byte) (xfer : Xfer) (s : State) : (latchTransfer op dev reg mask data xfer s).seq.pc = .setup := rfl
@[simp] theorem latchTransfer_seq_xfer (op : Byte) (dev : DevAddr) (reg mask data : Byte) (xfer : Xfer) (s : State) : (latchTransfer op dev reg mask data xfer s).seq.xfer = xfer := rfl
@[simp] theorem latchTransfer_seq_pollCnt (op : Byte) (dev : DevAddr) (reg mask data : Byte) (xfer : Xfer) (s : State) : (latchTransfer op dev reg mask data xfer s).seq.pollCnt = s.seq.pollCnt := rfl
@[simp] theorem latchTransfer_seq_fault (op : Byte) (dev : DevAddr) (reg mask data : Byte) (xfer : Xfer) (s : State) : (latchTransfer op dev reg mask data xfer s).seq.fault = s.seq.fault := rfl
@[simp] theorem latchTransfer_seq_cause (op : Byte) (dev : DevAddr) (reg mask data : Byte) (xfer : Xfer) (s : State) : (latchTransfer op dev reg mask data xfer s).seq.cause = s.seq.cause := rfl
@[simp] theorem latchTransfer_seq_respValid (op : Byte) (dev : DevAddr) (reg mask data : Byte) (xfer : Xfer) (s : State) : (latchTransfer op dev reg mask data xfer s).seq.respValid = s.seq.respValid := rfl
@[simp] theorem latchTransfer_seq_respData (op : Byte) (dev : DevAddr) (reg mask data : Byte) (xfer : Xfer) (s : State) : (latchTransfer op dev reg mask data xfer s).seq.respData = s.seq.respData := rfl
@[simp] theorem latchTransfer_seq_resps (op : Byte) (dev : DevAddr) (reg mask data : Byte) (xfer : Xfer) (s : State) : (latchTransfer op dev reg mask data xfer s).seq.resps = s.seq.resps := rfl
@[simp] theorem latchTransfer_cr (op : Byte) (dev : DevAddr) (reg mask data : Byte) (xfer : Xfer) (s : State) : (latchTransfer op dev reg mask data xfer s).cr = s.cr := rfl
@[simp] theorem latchTransfer_buf (op : Byte) (dev : DevAddr) (reg mask data : Byte) (xfer : Xfer) (s : State) : (latchTransfer op dev reg mask data xfer s).buf = s.buf := rfl
@[simp] theorem latchTransfer_eng (op : Byte) (dev : DevAddr) (reg mask data : Byte) (xfer : Xfer) (s : State) : (latchTransfer op dev reg mask data xfer s).eng = s.eng := rfl
@[simp] theorem latchTransfer_wire (op : Byte) (dev : DevAddr) (reg mask data : Byte) (xfer : Xfer) (s : State) : (latchTransfer op dev reg mask data xfer s).wire = s.wire := rfl
@[simp] theorem latchTransfer_port (op : Byte) (dev : DevAddr) (reg mask data : Byte) (xfer : Xfer) (s : State) : (latchTransfer op dev reg mask data xfer s).port = s.port := rfl
@[simp] theorem latchTransfer_dev (op : Byte) (dev : DevAddr) (reg mask data : Byte) (xfer : Xfer) (s : State) : (latchTransfer op dev reg mask data xfer s).dev = s.dev := rfl
@[simp] theorem latchTransfer_host (op : Byte) (dev : DevAddr) (reg mask data : Byte) (xfer : Xfer) (s : State) : (latchTransfer op dev reg mask data xfer s).host = s.host := rfl
@[simp] theorem latchTransfer_env (op : Byte) (dev : DevAddr) (reg mask data : Byte) (xfer : Xfer) (s : State) : (latchTransfer op dev reg mask data xfer s).env = s.env := rfl
@[simp] theorem latchTransfer_par (op : Byte) (dev : DevAddr) (reg mask data : Byte) (xfer : Xfer) (s : State) : (latchTransfer op dev reg mask data xfer s).par = s.par := rfl

/-! The sequencer's turn, as data: what the command port, the schedule and the parameters are after placing a word. -/

@[simp] theorem placeWord_port (w : CmdWord) (s : State) : (placeWord w s).port = some w := rfl
@[simp] theorem placeWord_pc (w : CmdWord) (s : State) : (placeWord w s).seq.pc = .idle := rfl
@[simp] theorem placeWord_sched (w : CmdWord) (s : State) :
    (placeWord w s).env.sched = .agent .seq :: s.env.sched := rfl
@[simp] theorem placeWord_par (w : CmdWord) (s : State) : (placeWord w s).par = s.par := rfl

end Sys2Proof.Machine
end

