-- ==== Sys2Proof/Laws/Ops.lean ====
section
/-! SUPPORT. What the shared operations answer: the register writes the steps perform, the BUF primitives, the device's
questions. -/

namespace Sys2Proof.Machine

@[simp] theorem chain_next {α β : Type} (a : α) (f : α → Res β) : chain (.next a) f = f a := rfl
@[simp] theorem chain_fault {α β : Type} (r : Fault) (f : α → Res β) : chain (.fault r) f = .fault r := rfl
@[simp] theorem chain_refused {α β : Type} (r : Refusal) (f : α → Res β) : chain (.refused r) f = .refused r := rfl

theorem chain_eq_next {α β : Type} {o : Res α} {f : α → Res β} {b : β} :
    chain o f = .next b ↔ ∃ a, o = .next a ∧ f a = .next b := by
  cases o <;> simp

/-! ### CR writes -/

@[simp] theorem writeCR_address (v : BitVec 7) (s : State) :
    writeCR .address v s = .next { s with cr.address := v } := rfl
@[simp] theorem writeCR_txdPtr (v : Byte) (s : State) : writeCR .txdPtr v s = .next { s with cr.txdPtr := v } := rfl
@[simp] theorem writeCR_txdMaxcnt (v : Byte) (s : State) :
    writeCR .txdMaxcnt v s = .next { s with cr.txdMaxcnt := v } := rfl
@[simp] theorem writeCR_rxdPtr (v : Byte) (s : State) : writeCR .rxdPtr v s = .next { s with cr.rxdPtr := v } := rfl
@[simp] theorem writeCR_rxdMaxcnt (v : Byte) (s : State) :
    writeCR .rxdMaxcnt v s = .next { s with cr.rxdMaxcnt := v } := rfl
@[simp] theorem writeCR_shorts (v : BitVec 3) (s : State) : writeCR .shorts v s = .next { s with cr.shorts := v } := rfl
@[simp] theorem writeCR_pselScl (v : BitVec 9) (s : State) :
    writeCR .pselScl v s = .next { s with cr.pselScl := v } := rfl
@[simp] theorem writeCR_pselSda (v : BitVec 9) (s : State) :
    writeCR .pselSda v s = .next { s with cr.pselSda := v } := rfl
@[simp] theorem writeCR_frequency (b : Bool) (s : State) :
    writeCR .frequency (BitVec.ofBool b) s = .next { s with cr.frequency := b } := by cases b <;> rfl
@[simp] theorem writeCR_enable_one (s : State) : writeCR .enable 1#1 s = .next { s with cr.enable := true } := rfl
@[simp] theorem writeCR_enable_zero (s : State) : writeCR .enable 0#1 s = .next { s with cr.enable := false } := rfl
@[simp] theorem writeCR_start (s : State) : writeCR .tasksStartTx 1#1 s = engTrigger s := rfl
@[simp] theorem writeCR_eventsTxDone_clear (s : State) :
    writeCR .eventsTxDone 0#1 s = .next { s with cr.eventsTxDone := false } := rfl
@[simp] theorem writeCR_eventsRxDone_clear (s : State) :
    writeCR .eventsRxDone 0#1 s = .next { s with cr.eventsRxDone := false } := rfl
@[simp] theorem writeCR_eventsStopped_clear (s : State) :
    writeCR .eventsStopped 0#1 s = .next { s with cr.eventsStopped := false } := rfl

@[simp] theorem readStopped_isOne (s : State) : isOne (readCR s .eventsStopped) = s.cr.eventsStopped := by
  change isOne (BitVec.ofBool s.cr.eventsStopped) = s.cr.eventsStopped
  cases s.cr.eventsStopped <;> rfl

/-- The sixteen indices are distinct: an index names at most one register (R27). -/
theorem regAtIndex_index (r : CReg) : regAtIndex r.index = some r := by cases r <;> decide

/-- Everything a trigger can answer (R191). -/
theorem engTrigger_next {s t : State} (h : engTrigger s = .next t) :
    (s.cr.enable = true ∧ s.eng = .idle ∧
      t = { s with cr.txdAmount := 0x00, cr.rxdAmount := 0x00, eng := .txAddr }) ∨
    (s.cr.enable = false ∧ t = s) := by
  unfold engTrigger at h
  split at h
  · split at h
    · cases h; exact .inl ⟨‹_›, ‹_›, rfl⟩
    · cases h
  · cases h; exact .inr ⟨Bool.eq_false_of_not_eq_true ‹_›, rfl⟩

/-! ### BUF primitives -/

/-- Everything a BUF read can answer (R77, R207). -/
theorem bufRead_next {a : Nat} {s : State} {v : Byte} :
    bufRead a s = .next v ↔ a < s.par.bufSize ∧ memRead bufUnlisted s.buf a = some v := by
  unfold bufRead
  split
  · split <;> simp_all
  · simp_all

/-- Everything a BUF write can answer (R77, R207). -/
theorem bufWrite_next {a : Nat} {v : Byte} {s t : State} :
    bufWrite a v s = .next t ↔
      a < s.par.bufSize ∧ t = { s with buf := memWrite bufUnlisted s.buf a v } := by
  unfold bufWrite
  split <;> simp_all [eq_comm]

theorem bufWrite_eq {a : Nat} (v : Byte) {s : State} (h : a < s.par.bufSize) :
    bufWrite a v s = .next { s with buf := memWrite bufUnlisted s.buf a v } := by
  simp [bufWrite, h]

/-- `MemRead(a, 1)` is the one-byte read. -/
theorem bufReadList_one (a : Nat) (s : State) :
    bufReadList a 1 s = chain (bufRead a s) fun v => .next [v] := rfl

/-! ### The device's questions -/

/-- An acknowledge question about an address changes nothing but the count of questions (R78). -/
theorem devAddrAck_state (rw : BitVec 1) (s : State) :
    (devAddrAck rw s).2 = { s with dev := countQuestion s.dev } := by
  simp only [devAddrAck]
  split
  · rfl
  · split <;> rfl

/-- What a written byte can do to the device (R78, R80): count the question, and for the simulated device set its
pointer or store the byte. -/
theorem devWriteByte_next {i : Nat} {b : Byte} {s : State} {q : Ack × State} (h : devWriteByte i b s = .next q) :
    q.2 = { s with dev := countQuestion s.dev } ∨
    (i = 0 ∧ s.dev.kind = .simdev ∧ q = (.ack, { s with dev := simSetPtr b (countQuestion s.dev) })) ∨
    (i = 1 ∧ s.dev.kind = .simdev ∧ q = (.ack, { s with dev := simStoreByte b (countQuestion s.dev) })) := by
  simp only [devWriteByte] at h
  split at h
  · cases h; exact .inl rfl
  · split at h
    · cases h; exact .inl rfl
    next hk =>
      split at h
      · cases h; exact .inr (.inl ⟨‹_›, hk, rfl⟩)
      · split at h
        · cases h; exact .inr (.inr ⟨‹_›, hk, rfl⟩)
        · cases h

/-- A read question changes nothing but the count of questions (R78, R80: the store is unchanged). -/
theorem devReadByte_next {i : Nat} {s : State} {q : ReadAns × State} (h : devReadByte i s = .next q) :
    q.2 = { s with dev := countQuestion s.dev } := by
  simp only [devReadByte] at h
  split at h
  · cases h; rfl
  · split at h
    · cases h; rfl
    · split at h
      · cases h; rfl
      · cases h

/-- Storing a byte moves nothing of the simulated device but its store. -/
theorem simStoreByte_fields (b : Byte) (d : Device) :
    (simStoreByte b d).kind = d.kind ∧ (simStoreByte b d).simAddr = d.simAddr ∧
      (simStoreByte b d).simPtr = d.simPtr ∧ (simStoreByte b d).simRsvd = d.simRsvd ∧
      (simStoreByte b d).asked = d.asked ∧ (simStoreByte b d).inject = d.inject :=
  ⟨rfl, rfl, rfl, rfl, rfl, rfl⟩

theorem simStoreByte_wf (b : Byte) (d : Device) (h : Memory.wf storeUnlisted 256 d.simStore = true) :
    Memory.wf storeUnlisted 256 (simStoreByte b d).simStore = true :=
  storeWrite_wf _ _ _ h

end Sys2Proof.Machine
end

