-- ==== Sys2Proof/Laws/Device.lean ====
section
/-! SUPPORT. What a well-behaved device (R79), oracle or simulated, answers to each of the engine's three questions, and that
it stays well-behaved. -/

namespace Sys2Proof.Machine

/-- Where no answer is placed on a question, none is placed for either kind of it. -/
theorem injected_none_answers {d : Device} {q : Nat} {a : DevAddr} (h : injected d.inject q a = none) :
    injectedAck d q a = none ∧ injectedRead d q a = none := by
  simp [injectedAck, injectedRead, h]

/-- An answer placed for one device address applies to no other (R79). -/
theorem injected_cons_other {q : Nat} {a b : DevAddr} (h : b ≠ a) (k : Nat) (x : Answer) (l : List Placed) :
    injected (⟨k, some b, x⟩ :: l) q a = injected l q a := by
  simp [injected, Placed.applies, h]

/-- Asking one more question leaves a well-behaved device well-behaved (R79). -/
theorem Device.WellBehaved.count {d : Device} {a : DevAddr} (h : d.WellBehaved a) : (countQuestion d).WellBehaved a := by
  unfold Device.WellBehaved at *
  cases hk : d.kind <;> simp only [hk, countQuestion] at *
  · exact fun q hq => h q (by omega)
  · exact ⟨h.1, fun q hq => h.2 q (by omega)⟩

/-- The oracle's next answers, where it is well-behaved for the device address asked. -/
theorem Device.WellBehaved.oracle {d : Device} {a : DevAddr} (h : d.WellBehaved a) (hk : d.kind = .oracle) :
    (injectedAck d (d.asked + 1) a).getD (Config.freeAck (d.asked + 1) a) = .ack ∧
      ∃ v, (injectedRead d (d.asked + 1) a).getD (Config.freeRead (d.asked + 1) a) = .byte v := by
  simp only [Device.WellBehaved, hk] at h
  exact h _ (Nat.lt_succ_self _)

/-- The simulated device's next question, where it is well-behaved: its own address, and a placed answer, if any, is an
acknowledgement or a byte. -/
theorem Device.WellBehaved.simdev {d : Device} {a : DevAddr} (h : d.WellBehaved a) (hk : d.kind = .simdev) :
    d.simAddr = a ∧ (injectedAck d (d.asked + 1) a).getD .ack = .ack ∧
      ∀ own, ∃ v, (injectedRead d (d.asked + 1) a).getD (.byte own) = .byte v := by
  simp only [Device.WellBehaved, hk] at h
  obtain ⟨h1, h2⟩ := h
  obtain ⟨h2, h3⟩ := h2 _ (Nat.lt_succ_self _)
  refine ⟨h1, h2, fun own => ?_⟩
  cases hr : injectedRead d (d.asked + 1) a with
  | none => exact ⟨own, rfl⟩
  | some r =>
    cases r with
    | byte v => exact ⟨v, rfl⟩
    | abort => exact absurd hr h3

/-- A well-behaved device acknowledges its address. -/
theorem devAddrAck_wellBehaved {s : State} {a : DevAddr} (rw : BitVec 1) (h : s.dev.WellBehaved a)
    (ha : s.cr.address = a) : devAddrAck rw s = (.ack, { s with dev := countQuestion s.dev }) := by
  subst ha
  show (match injectedAck s.dev (s.dev.asked + 1) s.cr.address with
    | some k => (k, _)
    | none => match s.dev.kind with
      | .oracle => (Config.freeAck (s.dev.asked + 1) s.cr.address, _)
      | .simdev => (simAddrAck s.cr.address s.dev, _)) = _
  cases hk : s.dev.kind with
  | oracle =>
    have hq := (h.oracle hk).1
    cases hi : injectedAck s.dev (s.dev.asked + 1) s.cr.address <;> simp only [hi, Option.getD] at hq <;> simp only [hq]
  | simdev =>
    obtain ⟨h1, hq, _⟩ := h.simdev hk
    cases hi : injectedAck s.dev (s.dev.asked + 1) s.cr.address <;> simp only [hi, Option.getD] at hq <;>
      simp [simAddrAck, h1, hq]

/-- A well-behaved device acknowledges payload bytes 0 and 1. The simulated one takes byte 0 as its pointer and stores byte
1 (R80), except where the acknowledgement is a placed one; nothing else of any device changes. -/
theorem devWriteByte_wellBehaved {s : State} {a : DevAddr} (i : Nat) (b : Byte) (hi : i = 0 ∨ i = 1)
    (h : s.dev.WellBehaved a) (ha : s.cr.address = a) :
    ∃ d, devWriteByte i b s = .next (.ack, { s with dev := d }) ∧ d.WellBehaved a ∧
      (s.dev.kind = .oracle ∨ injectedAck s.dev (s.dev.asked + 1) a ≠ none → d = countQuestion s.dev) ∧
      (s.dev.kind = .simdev → injectedAck s.dev (s.dev.asked + 1) a = none →
        d = if i = 0 then simSetPtr b (countQuestion s.dev) else simStoreByte b (countQuestion s.dev)) := by
  subst ha
  have e : devWriteByte i b s = (match injectedAck s.dev (s.dev.asked + 1) s.cr.address with
    | some k => .next (k, { s with dev := countQuestion s.dev })
    | none => match s.dev.kind with
      | .oracle => .next (Config.freeAck (s.dev.asked + 1) s.cr.address, { s with dev := countQuestion s.dev })
      | .simdev =>
        if i = 0 then .next (.ack, { s with dev := simSetPtr b (countQuestion s.dev) })
        else if i = 1 then .next (.ack, { s with dev := simStoreByte b (countQuestion s.dev) })
        else .refused (.simdevPayloadIndex i)) := rfl
  rw [e]
  cases hk : s.dev.kind with
  | oracle =>
    have hq := (h.oracle hk).1
    refine ⟨countQuestion s.dev, ?_, h.count, fun _ => rfl, fun e => nomatch e⟩
    cases hj : injectedAck s.dev (s.dev.asked + 1) s.cr.address <;> simp only [hj, Option.getD] at hq <;> simp only [hq]
  | simdev =>
    have hq := (h.simdev hk).2.1
    cases hj : injectedAck s.dev (s.dev.asked + 1) s.cr.address with
    | some k =>
      simp only [hj, Option.getD] at hq
      exact ⟨countQuestion s.dev, by simp only [hq], h.count, fun _ => rfl, fun _ e => nomatch e⟩
    | none =>
      rcases hi with rfl | rfl
      · exact ⟨simSetPtr b (countQuestion s.dev), rfl, h.count, fun e => by simp at e, fun _ _ => rfl⟩
      · exact ⟨simStoreByte b (countQuestion s.dev), rfl, h.count, fun e => by simp at e, fun _ _ => rfl⟩

/-- A well-behaved device answers the first read question with a byte: the placed one, else the oracle's, or the simulated
device's at its pointer. -/
theorem devReadByte_wellBehaved {s : State} {a : DevAddr} (h : s.dev.WellBehaved a) (ha : s.cr.address = a) :
    ∃ v, devReadByte 0 s = .next (.byte v, { s with dev := countQuestion s.dev }) ∧
      (s.dev.kind = .oracle →
        (injectedRead s.dev (s.dev.asked + 1) a).getD (Config.freeRead (s.dev.asked + 1) a) = .byte v) ∧
      (s.dev.kind = .simdev →
        (injectedRead s.dev (s.dev.asked + 1) a).getD (.byte (storeByte s.dev s.dev.simPtr)) = .byte v) := by
  subst ha
  have e : devReadByte 0 s = (match injectedRead s.dev (s.dev.asked + 1) s.cr.address with
    | some r => .next (r, { s with dev := countQuestion s.dev })
    | none => match s.dev.kind with
      | .oracle => .next (Config.freeRead (s.dev.asked + 1) s.cr.address, { s with dev := countQuestion s.dev })
      | .simdev => .next (.byte (storeByte s.dev s.dev.simPtr), { s with dev := countQuestion s.dev })) := rfl
  rw [e]
  cases hk : s.dev.kind with
  | oracle =>
    obtain ⟨v, hq⟩ := (h.oracle hk).2
    refine ⟨v, ?_, fun _ => hq, fun e => nomatch e⟩
    cases hj : injectedRead s.dev (s.dev.asked + 1) s.cr.address <;> simp only [hj, Option.getD] at hq <;> simp only [hq]
  | simdev =>
    obtain ⟨v, hq⟩ := (h.simdev hk).2.2 (storeByte s.dev s.dev.simPtr)
    refine ⟨v, ?_, fun e => (nomatch e), fun _ => hq⟩
    cases hj : injectedRead s.dev (s.dev.asked + 1) s.cr.address <;> simp only [hj, Option.getD] at hq <;> simp only [hq]

end Sys2Proof.Machine
end

