-- ==== Sys2Proof/Laws/PerInstr.lean ====
section
/-! SUPPORT. Statements made per instruction, one lemma per constructor of Instr. -/

namespace Sys2Proof.Laws

/-! ### Family OpcodeByte: the word of a command carries the command's opcode in its `op` field (R100, R102). -/

def OpcodeByte.Statement (i : Instr) : Prop := opField (encode i) = i.opcode

theorem OpcodeByte.enable (clockPin dataPin : Byte) (fast : Bool) :
    OpcodeByte.Statement (.enable clockPin dataPin fast) := by simp [Statement, encode, Instr.opcode]

theorem OpcodeByte.disable : OpcodeByte.Statement .disable := by simp [Statement, encode, Instr.opcode]

theorem OpcodeByte.regRead (dev : DevAddr) (reg : Byte) : OpcodeByte.Statement (.regRead dev reg) := by
  simp [Statement, encode, Instr.opcode]

theorem OpcodeByte.regWrite (dev : DevAddr) (reg data : Byte) : OpcodeByte.Statement (.regWrite dev reg data) := by
  simp [Statement, encode, Instr.opcode]

theorem OpcodeByte.regWriteMask (dev : DevAddr) (reg mask data : Byte) :
    OpcodeByte.Statement (.regWriteMask dev reg mask data) := by simp [Statement, encode, Instr.opcode]

end Sys2Proof.Laws
end

