-- ==== Sys2Proof/Laws/Steps.lean ====
section
/-! SUPPORT. One spec lemma per step function: everything it can answer. Later proofs cite these and never unfold a step. -/

namespace Sys2Proof.Machine

/-! ### The commands at ACCEPT (R130 to R132) -/

theorem takenAtIdle_idle (f : State → Res State) (s : State) (h : s.seq.pc = .idle) : takenAtIdle f s = f s :=
  if_pos h

theorem takenAtIdle_other (f : State → Res State) (s : State) (h : s.seq.pc ≠ .idle) : takenAtIdle f s = .next s :=
  if_neg h

/-- Any command is either not taken, away from IDLE, or taken at IDLE. -/
theorem exec_other (i : Instr) (s : State) (h : s.seq.pc ≠ .idle) : exec i s = .next s := by
  cases i <;>
    simp only [exec, execEnable, execDisable, execRegRead, execRegWrite, execRegWriteMask, takenAtIdle_other _ s h]

theorem exec_enable_idle (a b : Byte) (fast : Bool) (s : State) (h : s.seq.pc = .idle) (hab : a ≠ b) :
    exec (.enable a b fast) s = .next (endCommand 0x00
      { s with cr.pselScl := pselBound a, cr.pselSda := pselBound b, cr.frequency := fast, cr.enable := true }) := by
  rw [exec, execEnable, takenAtIdle_idle _ _ h, if_neg hab]
  simp

theorem exec_enable_equal (a : Byte) (fast : Bool) (s : State) (h : s.seq.pc = .idle) :
    exec (.enable a a fast) s = .refused .equalPins := by
  rw [exec, execEnable, takenAtIdle_idle _ _ h, if_pos rfl]

theorem exec_disable_idle (s : State) (h : s.seq.pc = .idle) :
    exec .disable s = .next (endCommand 0x00 { s with cr.enable := false }) := by
  rw [exec, execDisable, takenAtIdle_idle _ _ h]
  simp

theorem exec_regRead_idle (dev : DevAddr) (reg : Byte) (s : State) (h : s.seq.pc = .idle) :
    exec (.regRead dev reg) s = .next (latchTransfer 0x03 dev reg 0x00 0x00 .rd s) := by
  rw [exec, execRegRead, takenAtIdle_idle _ _ h]

theorem exec_regWrite_idle (dev : DevAddr) (reg data : Byte) (s : State) (h : s.seq.pc = .idle) :
    exec (.regWrite dev reg data) s = .next (latchTransfer 0x04 dev reg 0x00 data .wr s) := by
  rw [exec, execRegWrite, takenAtIdle_idle _ _ h]

theorem exec_regWriteMask_idle (dev : DevAddr) (reg mask data : Byte) (s : State) (h : s.seq.pc = .idle) :
    exec (.regWriteMask dev reg mask data) s = .next (latchTransfer 0x05 dev reg mask data .rd s) := by
  rw [exec, execRegWriteMask, takenAtIdle_idle _ _ h]

/-- Everything ACCEPT of a command can answer at IDLE. -/
theorem exec_idle_cases (i : Instr) (s : State) (h : s.seq.pc = .idle) :
    (∃ a fast, i = .enable a a fast ∧ exec i s = .refused .equalPins) ∨
    (∃ a b fast, i = .enable a b fast ∧ a ≠ b ∧ exec i s = .next (endCommand 0x00
      { s with cr.pselScl := pselBound a, cr.pselSda := pselBound b, cr.frequency := fast, cr.enable := true })) ∨
    (i = .disable ∧ exec i s = .next (endCommand 0x00 { s with cr.enable := false })) ∨
    (∃ op dev reg mask data xfer,
      ((op = 0x03 ∧ xfer = .rd) ∨ (op = 0x04 ∧ xfer = .wr) ∨ (op = 0x05 ∧ xfer = .rd)) ∧
        exec i s = .next (latchTransfer op dev reg mask data xfer s)) := by
  cases i with
  | enable a b fast =>
    by_cases hab : a = b
    · subst hab; exact .inl ⟨a, fast, rfl, exec_enable_equal a fast s h⟩
    · exact .inr (.inl ⟨a, b, fast, rfl, hab, exec_enable_idle a b fast s h hab⟩)
  | disable => exact .inr (.inr (.inl ⟨rfl, exec_disable_idle s h⟩))
  | regRead dev reg =>
    exact .inr (.inr (.inr ⟨_, _, _, _, _, _, .inl ⟨rfl, rfl⟩, exec_regRead_idle dev reg s h⟩))
  | regWrite dev reg data =>
    exact .inr (.inr (.inr ⟨_, _, _, _, _, _, .inr (.inl ⟨rfl, rfl⟩), exec_regWrite_idle dev reg data s h⟩))
  | regWriteMask dev reg mask data =>
    exact .inr (.inr (.inr ⟨_, _, _, _, _, _, .inr (.inr ⟨rfl, rfl⟩), exec_regWriteMask_idle dev reg mask data s h⟩))

/-! ### The phases (R154 to R160) -/

theorem setupRd_eq (s : State) (h : 0 < s.par.bufSize) :
    setupRd s = .next (setPc .trigger { s with
      cr.address := s.seq.dev, cr.txdPtr := 0x00, cr.txdMaxcnt := 0x01, cr.rxdPtr := 0x02, cr.rxdMaxcnt := 0x01,
      cr.shorts := 0b011#3, buf := memWrite bufUnlisted s.buf 0 s.seq.reg }) := by
  simp [setupRd, bufWrite_eq, h]

theorem setupWr_eq (s : State) (w : Byte) (h : 1 < s.par.bufSize) (hw : wdata s.seq = .next w) :
    setupWr s = .next (setPc .trigger { s with
      cr.address := s.seq.dev, cr.txdPtr := 0x00, cr.txdMaxcnt := 0x02, cr.shorts := 0b100#3
      buf := memWrite bufUnlisted (memWrite bufUnlisted s.buf 0 s.seq.reg) 1 w }) := by
  have h0 : 0 < s.par.bufSize := by omega
  simp [setupWr, bufWrite_eq, h, h0, hw]

/-- `WDATA` has a value exactly for the two opcodes that write (R153). -/
theorem wdata_next {q : SeqState} {w : Byte} :
    wdata q = .next w ↔ (q.op = 0x04 ∧ w = q.data) ∨ (q.op = 0x05 ∧ w = merge q.tmp q.mask q.data) := by
  unfold wdata
  split
  next h => simp [h, eq_comm]
  next h => split <;> simp_all [eq_comm]

/-- POLLCNT is all that TRIGGER's zeroing can touch (R156). -/
theorem zeroPollCnt_cases (s : State) :
    (s.par.pollLimit = none ∧ zeroPollCnt s = s) ∨
    (s.par.pollLimit ≠ none ∧ zeroPollCnt s = { s with seq.pollCnt := 0 }) := by
  unfold zeroPollCnt
  split <;> simp_all

/-- TRIGGER's zeroing touches nothing but POLLCNT. -/
theorem zeroPollCnt_frame (s : State) : ∃ n, zeroPollCnt s = { s with seq.pollCnt := n } := by
  rcases zeroPollCnt_cases s with ⟨_, e⟩ | ⟨_, e⟩
  · exact ⟨s.seq.pollCnt, e⟩
  · exact ⟨0, e⟩

/-- Everything TRIGGER can answer (R156, R191). -/
theorem triggerStep_next {s t : State} (h : triggerStep s = .next t) :
    (s.cr.enable = true ∧ s.eng = .idle ∧
      t = setPc .poll (zeroPollCnt { s with cr.txdAmount := 0x00, cr.rxdAmount := 0x00, eng := .txAddr })) ∨
    (s.cr.enable = false ∧ t = setPc .poll (zeroPollCnt s)) := by
  rw [triggerStep, writeCR_start, chain_eq_next] at h
  obtain ⟨u, hu, ht⟩ := h
  cases ht
  rcases engTrigger_next hu with ⟨h1, h2, rfl⟩ | ⟨h1, rfl⟩
  · exact .inl ⟨h1, h2, rfl⟩
  · exact .inr ⟨h1, rfl⟩

theorem clearRd_eq (s : State) :
    clearRd s = .next (setPc .complete { s with
      cr.eventsTxDone := false, cr.eventsRxDone := false, cr.eventsStopped := false }) := by
  simp [clearRd]

theorem clearWr_eq (s : State) :
    clearWr s = .next (setPc .complete { s with cr.eventsTxDone := false, cr.eventsStopped := false }) := by
  simp [clearWr]

/-- Everything COMPLETE(RD) can answer (R159). -/
theorem completeRd_next {s t : State} (h : completeRd s = .next t) :
    ∃ v, bufRead 2 s = .next v ∧
      ((s.seq.op = 0x03 ∧ t = endCommand v { s with seq.tmp := v }) ∨
       (s.seq.op = 0x05 ∧ t = { s with seq.tmp := v, seq.xfer := .wr, seq.pc := .setup })) := by
  rw [completeRd, chain_eq_next] at h
  obtain ⟨v, hv, ht⟩ := h
  refine ⟨v, hv, ?_⟩
  split at ht
  · cases ht; exact .inl ⟨‹_›, rfl⟩
  · split at ht
    · cases ht; exact .inr ⟨‹_›, rfl⟩
    · cases ht

/-! ### The arbiter (R231 to R234) -/

/-- Everything POLL can answer (R231, R234). -/
theorem pollStep_cases (s : State) :
    (s.cr.eventsStopped = true ∧ pollStep s = .next (setPc .check s)) ∨
    (s.cr.eventsStopped = false ∧ s.par.pollLimit = none ∧ pollStep s = .next (setPc .poll s)) ∨
    (∃ n, s.cr.eventsStopped = false ∧ s.par.pollLimit = some n ∧ pollStep s = .next (pollLimited n s)) := by
  unfold pollStep
  rw [readStopped_isOne]
  cases h : s.cr.eventsStopped
  · cases hl : s.par.pollLimit with
    | none => simp
    | some n => simp
  · simp

/-- A poll under a limit halts, changing nothing but the fault record and `pc`, or counts and stays (R234, R290). -/
theorem pollLimited_cases (n : Nat) (s : State) :
    (n ≤ s.seq.pollCnt + 1 ∧ pollLimited n s = raiseFatal .pollTimeout s) ∨
    (s.seq.pollCnt + 1 < n ∧ pollLimited n s = setPc .poll { s with seq.pollCnt := s.seq.pollCnt + 1 }) := by
  unfold pollLimited
  by_cases h : n ≤ s.seq.pollCnt + 1
  · exact .inl ⟨h, if_pos h⟩
  · exact .inr ⟨by omega, if_neg h⟩

theorem setPc_same (s : State) (h : s.seq.pc = .poll) : setPc .poll s = s := by
  rw [setPc, ← h]

/-- Everything CHECK(RD) can answer (R232). -/
theorem checkRd_cases (s : State) :
    ((s.cr.txdAmount ≠ 1 ∨ s.cr.rxdAmount ≠ 1) ∧ checkRd s = .next (raiseFatal .countMismatchRd s)) ∨
    (s.cr.txdAmount = 1 ∧ s.cr.rxdAmount = 1 ∧ checkRd s = .next (setPc .clear s)) := by
  unfold checkRd
  by_cases h : s.cr.txdAmount ≠ 1 ∨ s.cr.rxdAmount ≠ 1
  · exact .inl ⟨h, if_pos h⟩
  · have h' := not_or.1 h
    exact .inr ⟨not_not.1 h'.1, not_not.1 h'.2, if_neg h⟩

/-- Everything CHECK(WR) can answer (R233). -/
theorem checkWr_cases (s : State) :
    (s.cr.txdAmount ≠ 2 ∧ checkWr s = .next (raiseFatal .countMismatchWr s)) ∨
    (s.cr.txdAmount = 2 ∧ checkWr s = .next (setPc .clear s)) := by
  unfold checkWr
  by_cases h : s.cr.txdAmount ≠ 2
  · exact .inl ⟨h, if_pos h⟩
  · exact .inr ⟨not_not.1 h, if_neg h⟩

/-! ### The engine (R192 to R198) -/

/-- Everything E-TXADDR can answer (R192), by the device's answer. -/
theorem engTxAddr_eq (s : State) :
    engTxAddr s = .next
      (match (devAddrAck 0#1 (emit .start s)).1 with
        | .ack => { s with wire := s.wire ++ [.start, .sent (addressByte s.cr.address 0#1) .a]
                           dev := countQuestion s.dev, eng := .txData }
        | .nack => { s with wire := s.wire ++ [.start, .sent (addressByte s.cr.address 0#1) .n]
                            dev := countQuestion s.dev, eng := .stalled }
        | .abort => { s with wire := s.wire ++ [.start], dev := countQuestion s.dev, eng := .stopping }) := by
  unfold engTxAddr
  simp only [devAddrAck_state]
  cases (devAddrAck 0#1 (emit .start s)).1 <;> simp [emit, setEng]

/-- Everything E-RXADDR can answer (R195), by the device's answer. -/
theorem engRxAddr_eq (s : State) :
    engRxAddr s = .next
      (match (devAddrAck 1#1 (emit .repStart s)).1 with
        | .ack => { s with wire := s.wire ++ [.repStart, .sent (addressByte s.cr.address 1#1) .a]
                           dev := countQuestion s.dev, eng := .rxData }
        | .nack => { s with wire := s.wire ++ [.repStart, .sent (addressByte s.cr.address 1#1) .n]
                            dev := countQuestion s.dev, eng := .stalled }
        | .abort => { s with wire := s.wire ++ [.repStart], dev := countQuestion s.dev, eng := .stopping }) := by
  unfold engRxAddr
  simp only [devAddrAck_state]
  cases (devAddrAck 1#1 (emit .repStart s)).1 <;> simp [emit, setEng]

/-- The only devices a written byte can leave behind (R78, R80). -/
def DeviceAfterByte (i : Nat) (b : Byte) (d d' : Device) : Prop :=
  d' = countQuestion d ∨
  (i = 0 ∧ d.kind = .simdev ∧ d' = simSetPtr b (countQuestion d)) ∨
  (i = 1 ∧ d.kind = .simdev ∧ d' = simStoreByte b (countQuestion d))

/-- Everything E-TXDATA can answer (R193). -/
theorem engTxData_next {s t : State} (h : engTxData s = .next t) :
    ∃ b d, bufRead (s.cr.txdPtr.toNat + s.cr.txdAmount.toNat) s = .next b ∧
      DeviceAfterByte s.cr.txdAmount.toNat b s.dev d ∧
      (t = { s with wire := s.wire ++ [.sent b .a], dev := d, cr.txdAmount := s.cr.txdAmount + 1 } ∨
       t = { s with wire := s.wire ++ [.sent b .n], dev := d, eng := .stalled } ∨
       t = { s with dev := d, eng := .stopping }) := by
  rw [engTxData, chain_eq_next] at h
  obtain ⟨b, hb, h⟩ := h
  rw [chain_eq_next] at h
  obtain ⟨⟨k, q⟩, hq, h⟩ := h
  have hd : ∃ d, DeviceAfterByte s.cr.txdAmount.toNat b s.dev d ∧ q = { s with dev := d } := by
    rcases devWriteByte_next hq with h1 | ⟨h0, hk, h1⟩ | ⟨h0, hk, h1⟩
    · exact ⟨_, .inl rfl, h1⟩
    · cases h1; exact ⟨_, .inr (.inl ⟨h0, hk, rfl⟩), rfl⟩
    · cases h1; exact ⟨_, .inr (.inr ⟨h0, hk, rfl⟩), rfl⟩
  obtain ⟨d, hd, rfl⟩ := hd
  refine ⟨b, d, hb, hd, ?_⟩
  cases k <;> cases h <;> simp [emit, setEng]

/-- Everything E-LASTTX can answer (R194, R204). -/
theorem engLastTx_cases (s : State) :
    (txDoneStartRx s = true ∧ txDoneStop s = false ∧
      engLastTx s = .next (setEng .rxAddr (generateTxDone s))) ∨
    (txDoneStartRx s = false ∧ txDoneStop s = true ∧
      engLastTx s = .next (setEng .stopping (generateTxDone s))) ∨
    (txDoneStartRx s = false ∧ txDoneStop s = false ∧
      engLastTx s = .next (setEng .stalled (generateTxDone s))) ∨
    (txDoneStartRx s = true ∧ txDoneStop s = true ∧ engLastTx s = .refused .bothTxDoneLinks) := by
  unfold engLastTx
  cases txDoneStartRx s <;> cases txDoneStop s <;> simp

/-- Everything E-RXDATA can answer (R196). -/
theorem engRxData_next {s t : State} (h : engRxData s = .next t) :
    (∃ v, s.cr.rxdPtr.toNat + s.cr.rxdAmount.toNat < s.par.bufSize ∧
      t = { s with
        dev := countQuestion s.dev
        buf := memWrite bufUnlisted s.buf (s.cr.rxdPtr.toNat + s.cr.rxdAmount.toNat) v
        cr.rxdAmount := s.cr.rxdAmount + 1
        wire := s.wire ++ [.got v (masterAck (s.cr.rxdAmount + 1) s.cr.rxdMaxcnt)] }) ∨
    t = { s with dev := countQuestion s.dev, eng := .stopping } := by
  rw [engRxData, chain_eq_next] at h
  obtain ⟨⟨r, q⟩, hq, h⟩ := h
  have hs := devReadByte_next hq
  simp only at hs
  subst hs
  cases r with
  | byte v =>
    simp only [chain_eq_next, bufWrite_next] at h
    obtain ⟨u, ⟨hu, rfl⟩, h⟩ := h
    cases h
    exact .inl ⟨v, hu, rfl⟩
  | abort => cases h; exact .inr rfl

/-- The engine moves only while it has an enabled step (R190). -/
theorem engStep_disabled (s : State) (h : engEnabled s = false) : engStep s = .next s := by
  simp [engStep, h]

/-- Which step the engine takes (R190). -/
theorem engStep_cases (s : State) :
    engStep s = .next s ∨
    (s.cr.enable = true ∧ s.eng = .txAddr ∧ engStep s = engTxAddr s) ∨
    (s.cr.enable = true ∧ s.eng = .txData ∧ s.cr.txdAmount = s.cr.txdMaxcnt ∧ engStep s = engLastTx s) ∨
    (s.cr.enable = true ∧ s.eng = .txData ∧ s.cr.txdAmount.toNat < s.cr.txdMaxcnt.toNat ∧
      engStep s = engTxData s) ∨
    (s.cr.enable = true ∧ s.eng = .rxAddr ∧ engStep s = engRxAddr s) ∨
    (s.cr.enable = true ∧ s.eng = .rxData ∧ s.cr.rxdAmount = s.cr.rxdMaxcnt ∧ engStep s = engLastRx s) ∨
    (s.cr.enable = true ∧ s.eng = .rxData ∧ s.cr.rxdAmount.toNat < s.cr.rxdMaxcnt.toNat ∧
      engStep s = engRxData s) ∨
    (s.cr.enable = true ∧ s.eng = .stopping ∧ engStep s = engStop s) := by
  unfold engStep
  by_cases he : engEnabled s = true
  · rw [if_pos he]
    have hen : s.cr.enable = true := by
      simp only [engEnabled, Bool.and_eq_true] at he
      exact he.1
    cases hg : s.eng with
    | idle => simp
    | stalled => simp
    | txAddr => simp [hen]
    | rxAddr => simp [hen]
    | stopping => simp [hen]
    | txData =>
      by_cases hc : s.cr.txdAmount = s.cr.txdMaxcnt
      · simp [hen, hc]
      · simp only [engEnabled, hen, hg, Bool.true_and, decide_eq_true_eq] at he
        have : s.cr.txdAmount.toNat ≠ s.cr.txdMaxcnt.toNat := fun e => hc (BitVec.eq_of_toNat_eq e)
        have hlt : s.cr.txdAmount.toNat < s.cr.txdMaxcnt.toNat := by omega
        simp [hen, hc, hlt]
    | rxData =>
      by_cases hc : s.cr.rxdAmount = s.cr.rxdMaxcnt
      · simp [hen, hc]
      · simp only [engEnabled, hen, hg, Bool.true_and, decide_eq_true_eq] at he
        have : s.cr.rxdAmount.toNat ≠ s.cr.rxdMaxcnt.toNat := fun e => hc (BitVec.eq_of_toNat_eq e)
        have hlt : s.cr.rxdAmount.toNat < s.cr.rxdMaxcnt.toNat := by omega
        simp [hen, hc, hlt]
  · exact .inl (if_neg he)

theorem engStep_txAddr (s : State) (he : s.cr.enable = true) (hg : s.eng = .txAddr) : engStep s = engTxAddr s := by
  rw [engStep, if_pos (by simp [engEnabled, he, hg]), hg]

theorem engStep_rxAddr (s : State) (he : s.cr.enable = true) (hg : s.eng = .rxAddr) : engStep s = engRxAddr s := by
  rw [engStep, if_pos (by simp [engEnabled, he, hg]), hg]

theorem engStep_stopping (s : State) (he : s.cr.enable = true) (hg : s.eng = .stopping) : engStep s = engStop s := by
  rw [engStep, if_pos (by simp [engEnabled, he, hg]), hg]

theorem engStep_txData (s : State) (he : s.cr.enable = true) (hg : s.eng = .txData)
    (h : s.cr.txdAmount.toNat < s.cr.txdMaxcnt.toNat) : engStep s = engTxData s := by
  rw [engStep, if_pos (by simp [engEnabled, he, hg]; omega), hg]
  simp only
  rw [if_neg]
  intro e
  rw [e] at h
  omega

theorem engStep_lastTx (s : State) (he : s.cr.enable = true) (hg : s.eng = .txData)
    (h : s.cr.txdAmount = s.cr.txdMaxcnt) : engStep s = engLastTx s := by
  rw [engStep, if_pos (by simp [engEnabled, he, hg, h]), hg]
  simp only
  rw [if_pos h]

theorem engStep_rxData (s : State) (he : s.cr.enable = true) (hg : s.eng = .rxData)
    (h : s.cr.rxdAmount.toNat < s.cr.rxdMaxcnt.toNat) : engStep s = engRxData s := by
  rw [engStep, if_pos (by simp [engEnabled, he, hg]; omega), hg]
  simp only
  rw [if_neg]
  intro e
  rw [e] at h
  omega

theorem engStep_lastRx (s : State) (he : s.cr.enable = true) (hg : s.eng = .rxData)
    (h : s.cr.rxdAmount = s.cr.rxdMaxcnt) : engStep s = engLastRx s := by
  rw [engStep, if_pos (by simp [engEnabled, he, hg, h]), hg]
  simp only
  rw [if_pos h]

/-- A device's answer does not depend on the wire (R78). -/
theorem devAddrAck_emit (rw : BitVec 1) (x : Sym) (s : State) : (devAddrAck rw (emit x s)).1 = (devAddrAck rw s).1 := by
  simp only [devAddrAck, emit]
  split
  · rfl
  · split <;> rfl

/-! ### Which step the sequencer takes (R163) -/

theorem seqStep_idle (s : State) (w : CmdWord) (h : s.seq.pc = .idle) (hw : s.port = some w) :
    seqStep s = acceptWord w (takePort s) := by simp only [seqStep, h, hw]

theorem seqStep_idle_none (s : State) (h : s.seq.pc = .idle) (hw : s.port = none) : seqStep s = .next s := by
  simp only [seqStep, h, hw]

theorem seqStep_setupRd (s : State) (h : s.seq.pc = .setup) (hx : s.seq.xfer = .rd) : seqStep s = setupRd s := by
  simp only [seqStep, h, hx]

theorem seqStep_setupWr (s : State) (h : s.seq.pc = .setup) (hx : s.seq.xfer = .wr) : seqStep s = setupWr s := by
  simp only [seqStep, h, hx]

theorem seqStep_trigger (s : State) (h : s.seq.pc = .trigger) : seqStep s = triggerStep s := by
  simp only [seqStep, h]

theorem seqStep_poll (s : State) (h : s.seq.pc = .poll) : seqStep s = pollStep s := by simp only [seqStep, h]

theorem seqStep_checkRd (s : State) (h : s.seq.pc = .check) (hx : s.seq.xfer = .rd) : seqStep s = checkRd s := by
  simp only [seqStep, h, hx]

theorem seqStep_checkWr (s : State) (h : s.seq.pc = .check) (hx : s.seq.xfer = .wr) : seqStep s = checkWr s := by
  simp only [seqStep, h, hx]

theorem seqStep_clearRd (s : State) (h : s.seq.pc = .clear) (hx : s.seq.xfer = .rd) : seqStep s = clearRd s := by
  simp only [seqStep, h, hx]

theorem seqStep_clearWr (s : State) (h : s.seq.pc = .clear) (hx : s.seq.xfer = .wr) : seqStep s = clearWr s := by
  simp only [seqStep, h, hx]

theorem seqStep_completeRd (s : State) (h : s.seq.pc = .complete) (hx : s.seq.xfer = .rd) :
    seqStep s = completeRd s := by simp only [seqStep, h, hx]

theorem seqStep_completeWr (s : State) (h : s.seq.pc = .complete) (hx : s.seq.xfer = .wr) :
    seqStep s = completeWr s := by simp only [seqStep, h, hx]

theorem seqStep_fatal (s : State) (h : s.seq.pc = .fatal) : seqStep s = .next s := by simp only [seqStep, h]

/-! ### What a step of the sequencer leaves -/

/-- What a step of the sequencer leaves, whichever it is: the device, HOST, the schedule, the parameters and the wire; the
port but where ACCEPT takes the word; the engine and its counters but where TRIGGER starts it; and it sets no event flag
(R29, R130, R156). -/
abbrev SeqFrame (s t : State) : Prop :=
  (t.dev = s.dev ∧ t.host = s.host ∧ t.env = s.env ∧ t.par = s.par ∧ t.wire = s.wire) ∧
    (t.port = s.port ∨ s.seq.pc = .idle ∧ t.port = none) ∧
    ((t.eng = s.eng ∧ t.cr.txdAmount = s.cr.txdAmount ∧ t.cr.rxdAmount = s.cr.rxdAmount) ∨
      (s.seq.pc = .trigger ∧ s.cr.enable = true ∧ s.eng = .idle)) ∧
    (t.cr.eventsTxDone = true → s.cr.eventsTxDone = true) ∧
    (t.cr.eventsRxDone = true → s.cr.eventsRxDone = true) ∧
    (t.cr.eventsStopped = true → s.cr.eventsStopped = true)

theorem seqFrame_acceptWord {w : CmdWord} {s t : State} (hp : s.seq.pc = .idle) (h : acceptWord w (takePort s) = .next t) :
    SeqFrame s t := by
  unfold acceptWord at h
  split at h
  next i _ =>
    rcases exec_idle_cases i (takePort s) hp with ⟨_, _, _, e⟩ | ⟨_, _, _, _, _, e⟩ | ⟨_, e⟩ | ⟨_, _, _, _, _, _, _, e⟩ <;>
      rw [e] at h <;> cases h <;> simp [hp, takePort, SeqFrame]
  next => cases h; simp [hp, takePort, SeqFrame]

theorem seqFrame_setup {s t : State}
    (h : (match s.seq.xfer with | .rd => setupRd s | .wr => setupWr s) = .next t) : SeqFrame s t := by
  cases hx : s.seq.xfer <;> rw [hx] at h
  · simp only [setupRd, chain_eq_next, writeCR, bufWrite_next, Host.Outcome.next.injEq] at h
    obtain ⟨_, rfl, _, ⟨_, rfl⟩, _, rfl, _, rfl, _, rfl, _, rfl, _, rfl, rfl⟩ := h
    simp [SeqFrame]
  · simp only [setupWr, chain_eq_next, writeCR, bufWrite_next, Host.Outcome.next.injEq] at h
    obtain ⟨_, _, _, rfl, _, ⟨_, rfl⟩, _, ⟨_, rfl⟩, _, rfl, _, rfl, _, rfl, rfl⟩ := h
    simp [SeqFrame]

theorem seqFrame_trigger {s t : State} (hp : s.seq.pc = .trigger) (h : triggerStep s = .next t) : SeqFrame s t := by
  rcases triggerStep_next h with ⟨he, hg, rfl⟩ | ⟨_, rfl⟩
  · obtain ⟨n, e⟩ := zeroPollCnt_frame { s with cr.txdAmount := 0x00, cr.rxdAmount := 0x00, eng := .txAddr }
    rw [e]
    exact ⟨⟨rfl, rfl, rfl, rfl, rfl⟩, .inl rfl, .inr ⟨hp, he, hg⟩, id, id, id⟩
  · obtain ⟨n, e⟩ := zeroPollCnt_frame s
    rw [e]
    exact ⟨⟨rfl, rfl, rfl, rfl, rfl⟩, .inl rfl, .inl ⟨rfl, rfl, rfl⟩, id, id, id⟩

theorem seqFrame_poll {s t : State} (h : pollStep s = .next t) : SeqFrame s t := by
  rcases pollStep_cases s with ⟨_, e⟩ | ⟨_, _, e⟩ | ⟨n, _, _, e⟩ <;> rw [e] at h <;> cases h
  · simp [SeqFrame]
  · simp [SeqFrame]
  · rcases pollLimited_cases n s with ⟨_, e⟩ | ⟨_, e⟩ <;> simp [e, SeqFrame]

theorem seqFrame_check {s t : State}
    (h : (match s.seq.xfer with | .rd => checkRd s | .wr => checkWr s) = .next t) : SeqFrame s t := by
  cases hx : s.seq.xfer <;> rw [hx] at h
  · rcases checkRd_cases s with ⟨_, e⟩ | ⟨_, _, e⟩ <;> rw [e] at h <;> cases h <;> simp [SeqFrame]
  · rcases checkWr_cases s with ⟨_, e⟩ | ⟨_, e⟩ <;> rw [e] at h <;> cases h <;> simp [SeqFrame]

theorem seqFrame_clear {s t : State}
    (h : (match s.seq.xfer with | .rd => clearRd s | .wr => clearWr s) = .next t) : SeqFrame s t := by
  cases hx : s.seq.xfer <;> rw [hx] at h
  · rw [clearRd_eq] at h; cases h; simp [SeqFrame]
  · rw [clearWr_eq] at h; cases h; simp [SeqFrame]

theorem seqFrame_complete {s t : State}
    (h : (match s.seq.xfer with | .rd => completeRd s | .wr => completeWr s) = .next t) : SeqFrame s t := by
  cases hx : s.seq.xfer <;> rw [hx] at h
  · obtain ⟨_, _, ⟨_, rfl⟩ | ⟨_, rfl⟩⟩ := completeRd_next h <;> simp [endCommand, respond, SeqFrame]
  · cases h; simp [endCommand, respond, SeqFrame]

/-- Everything a step of the sequencer leaves, whichever phase it is of. -/
theorem seqStep_frame {s t : State} (h : seqStep s = .next t) : SeqFrame s t := by
  unfold seqStep at h
  split at h
  next hp =>
    split at h
    · cases h; simp [SeqFrame]
    · exact seqFrame_acceptWord hp h
  next => exact seqFrame_setup h
  next hp => exact seqFrame_trigger hp h
  next => exact seqFrame_poll h
  next => exact seqFrame_check h
  next => exact seqFrame_clear h
  next => exact seqFrame_complete h
  next => cases h; simp [SeqFrame]
/-! ### HOST -/

/-- HOST touches nothing of the block but the response's valid bit and the command port (R299). -/
theorem hostStep_block (s : State) :
    (hostStep s).cr = s.cr ∧ (hostStep s).buf = s.buf ∧ (hostStep s).eng = s.eng ∧ (hostStep s).wire = s.wire ∧
      (hostStep s).dev = s.dev ∧ (hostStep s).env = s.env ∧ (hostStep s).par = s.par ∧
      (hostStep s).seq = { s.seq with respValid := (hostStep s).seq.respValid } := by
  unfold hostStep
  split
  · split
    · exact ⟨rfl, rfl, rfl, rfl, rfl, rfl, rfl, rfl⟩
    · unfold hostAct
      split
      · exact ⟨rfl, rfl, rfl, rfl, rfl, rfl, rfl, rfl⟩
      · exact ⟨rfl, rfl, rfl, rfl, rfl, rfl, rfl, rfl⟩
      · split <;> exact ⟨rfl, rfl, rfl, rfl, rfl, rfl, rfl, rfl⟩
      · exact ⟨rfl, rfl, rfl, rfl, rfl, rfl, rfl, rfl⟩
      · exact ⟨rfl, rfl, rfl, rfl, rfl, rfl, rfl, rfl⟩
  · exact ⟨rfl, rfl, rfl, rfl, rfl, rfl, rfl, rfl⟩

/-! ### The machine's step -/

/-- Whose step a machine step is, and from which state: the one that differs from `s` in the schedule, of which it keeps a
part, and in the draw count (R12). A step that is no agent's and no reset changes nothing, and no agent is then enabled. -/
theorem machineStep_cases (s : State) :
    (∃ e a, machineStep s = agentStep a { s with env := e } ∧ mover s = some a ∧ e.sched ⊆ s.env.sched) ∨
    (∃ e, machineStep s = .next (resetEvent { s with env := e }) ∧ Turn.reset ∈ s.env.sched) ∨
    (machineStep s = .next s ∧ mover s = none ∧ enabledAgents s = []) := by
  unfold machineStep
  split
  next t rest hs =>
    cases t with
    | agent a => exact .inl ⟨_, a, rfl, by simp [mover, hs], by simp [hs]⟩
    | reset => exact .inr (.inl ⟨_, rfl, by simp [hs]⟩)
  next hs =>
    unfold freeStep
    split
    next h => exact .inr (.inr ⟨rfl, by simp [mover, freeMover, hs, h], h⟩)
    next a h => exact .inl ⟨s.env, a, rfl, by simp [mover, freeMover, hs, h], by simp⟩
    next a b l h => exact .inl ⟨_, _, rfl, by simp [mover, freeMover, hs, h], by simp⟩

end Sys2Proof.Machine
end

