-- ==== Sys2Proof/Laws/Run.lean ====
section
/-! SUPPORT. How a run of several steps unfolds, one step at a time and in two parts, and how a weakly fair run goes on. -/

namespace Sys2Proof.Machine

/-- A run that begins with a step that answers `t` goes on from `t`. -/
theorem core_run_next {n : Nat} {s t : State} (h : step s = .next t) :
    Sys2Proof.core.run (n + 1) s = Sys2Proof.core.run n t := by
  have e := Host.Core.run.eq_2 Sys2Proof.core s n
  have h' : Sys2Proof.core.step s = .next t := h
  rw [h'] at e
  exact e

/-- Everything a run of `n + 1` steps that answers a next state says about its first step. -/
theorem core_run_inv {n : Nat} {s u : State} (h : Sys2Proof.core.run (n + 1) s = .next u) :
    ∃ t, step s = .next t ∧ Sys2Proof.core.run n t = .next u := by
  have e := Host.Core.run.eq_2 Sys2Proof.core s n
  cases h' : step s with
  | next t => exact ⟨t, rfl, by rw [← h, core_run_next h']⟩
  | fault r =>
    have h' : Sys2Proof.core.step s = .fault r := h'
    rw [h'] at e
    cases h.symm.trans e
  | refused r =>
    have h' : Sys2Proof.core.step s = .refused r := h'
    rw [h'] at e
    cases h.symm.trans e

/-- A run in two parts. -/
theorem core_run_add {m n : Nat} {s t : State} (h : Sys2Proof.core.run m s = .next t) :
    Sys2Proof.core.run (m + n) s = Sys2Proof.core.run n t := by
  induction m generalizing s with
  | zero => cases h; rw [Nat.zero_add]
  | succ m ih =>
    obtain ⟨q, h1, h2⟩ := core_run_inv h
    rw [Nat.add_right_comm, core_run_next h1]
    exact ih h2

/-- A step whose turn the schedule settles (R12). -/
theorem step_turn (s : State) (a : Agent) (rest : List Turn) (h : s.env.sched = .agent a :: rest) :
    step s = agentStep a { s with env.sched := rest } := by
  simp only [step, machineStep, h, turnStep, dropTurn, List.tail_cons]

/-- A step where no reset is due: an agent's, from a state that differs in the schedule and the draw count alone and where
no reset is due either, or no agent is enabled and nothing changes (R12). -/
theorem step_noReset_cases {s : State} (h : noReset s) :
    (∃ e a, step s = agentStep a { s with env := e } ∧ mover s = some a ∧ noReset { s with env := e }) ∨
    (step s = .next s ∧ mover s = none ∧ enabledAgents s = []) := by
  rcases machineStep_cases s with ⟨e, a, h1, h2, h3⟩ | ⟨e, h1, h2⟩ | h1
  · exact .inl ⟨e, a, h1, h2, fun hr => h (h3 hr)⟩
  · exact absurd h2 h
  · exact .inr h1

/-- Along a weakly fair run: from a state with `P`, in which an agent's step is enabled and which every step but that
agent's keeps unless it reaches `Q`, a state with `Q` is reached (R12, R208). -/
theorem fair_leads {r : Nat → State} (hr : IsRun r) (hf : WeaklyFair r) (P Q : State → Prop) (a : Agent)
    (henabled : ∀ s, P s → agentEnabled s a = true)
    (hstep : ∀ s t, P s → step s = .next t → Q t ∨ (P t ∧ mover s ≠ some a)) (n : Nat) (h : P (r n)) :
    ∃ m, n ≤ m ∧ Q (r m) := by
  by_contra hno
  have hP : ∀ m, n ≤ m → P (r m) := by
    intro m hm
    induction m, hm using Nat.le_induction with
    | base => exact h
    | succ m hm ih =>
      rcases hstep _ _ ih (hr m) with hq | hp
      · exact absurd ⟨m + 1, Nat.le_succ_of_le hm, hq⟩ hno
      · exact hp.1
  obtain ⟨m, hm, hmover⟩ := hf a n (fun m hm => henabled _ (hP m hm))
  rcases hstep _ _ (hP m hm) (hr m) with hq | hp
  · exact hno ⟨m + 1, Nat.le_succ_of_le hm, hq⟩
  · exact hp.2 hmover

end Sys2Proof.Machine
end

