-- ==== Sys2Proof/Laws/WellFormed.lean ====
section
/-! SUPPORT. What the well-formedness of parameters and register maps gives, and that the default parameters are legal
whatever the free values are. -/

namespace Sys2Proof

theorem RMap.someLawful_lawful : RMap.someLawful.lawful 0x46 = true := by decide

/-- The default register map is lawful, whatever the free value is (R251). -/
theorem RMap.default_lawful : RMap.default.lawful 0x46 = true := by
  unfold RMap.default
  split
  · assumption
  · exact RMap.someLawful_lawful

/-- The default parameters are legal, whatever the free values are (R8). -/
theorem Params.default_wf : Params.default.wf = true := by
  have h1 := Config.openPinScl.isLt
  have h2 := Config.openPinSda.isLt
  simpa [Params.wf, Params.default, h1, h2] using RMap.default_lawful

/-- BUF of legal parameters holds the three bytes of the sequencer's layout (R37). -/
theorem Params.wf_bufSize {p : Params} (h : p.wf = true) : 3 ≤ p.bufSize := by
  simp only [Params.wf, Bool.and_eq_true, decide_eq_true_eq] at h
  exact h.1.2

/-- The register map of legal parameters is lawful at the PMIC's address (R251, U10). -/
theorem Params.wf_rmap {p : Params} (h : p.wf = true) : p.rmap.lawful p.pmicAddr = true := by
  simp only [Params.wf, Bool.and_eq_true, decide_eq_true_eq] at h
  exact h.2

/-- Every entry of a lawful map is at the map's device address and obeys the structural law (R251). -/
theorem RMap.lawful_entry {a : DevAddr} {m : RMap} (h : m.lawful a = true) {e : RMapEntry} (he : e ∈ m.entries) :
    e.dev = a ∧ e.lawful = true := by
  simp only [RMap.lawful, Bool.and_eq_true, List.all_eq_true, decide_eq_true_eq] at h
  exact h.1.1.1.1.1.1.1 e he

end Sys2Proof
end

