-- ==== Sys2Proof/Tests/Slice0.lean ====
section
/-! SUPPORT. Tests: the well-formedness checks, decoding of words written out in spec/95_test_vectors.md, single steps
with the results that file or the cited rule gives, and for every statement with hypotheses a state that meets them. -/

namespace Sys2Proof.Tests

open Sys2Proof Sys2Proof.Machine

/-! ### Small states -/

/-- A register map entry of the fixture TM: device 0x46 (spec/95_test_vectors.md 1.4). -/
def tmEntry (reg mask : Byte) (shift : Nat) : RMapEntry := { dev := 0x46, reg := reg, mask := mask, shift := shift }

/-- The fixture map TM (spec/95_test_vectors.md 1.4). -/
def tm : RMap :=
  { buckVout := tmEntry 0x90 0x3F 0, buckbstVout := tmEntry 0x91 0x3F 0, buckbstEn := tmEntry 0x92 0x01 0
    buckDischg := tmEntry 0x93 0x02 1, vbusIlim := tmEntry 0x94 0x07 0, chgCurrent := tmEntry 0x95 0x1F 0
    ocChg := tmEntry 0x96 0xE0 5, chgEn := tmEntry 0x97 0x01 0 }

/-- Parameters under TM. -/
def tmPar : Params :=
  { pollLimit := none, idCheck := true, regIdMfg := 0x80, regIdRev := 0x81, idMfgValue := 0x10, idRevValue := 0x08
    pmicAddr := 0x46, pinCount := 256, pinSclFixed := 0x0C, pinSdaFixed := 0x0B, bufSize := 4, rmap := tm
    code1v8 := 0x18, code3v3 := 0x13 }

/-- RESET0 with the simulated device, every byte of its store 0x00 (spec/95_test_vectors.md 1.1, 1.2). -/
def reset0 : State := { State.reset with par := tmPar, dev.kind := .simdev }

/-- ENABLED0 (spec/95_test_vectors.md 1.1). -/
def enabled0 : State :=
  { reset0 with cr.pselScl := 0x10C, cr.pselSda := 0x10B, cr.frequency := true, cr.enable := true }

/-- ENABLED0 at a phase, with a transfer and an opcode. -/
def at' (p : Phase) (x : Xfer) (op : Byte) : State :=
  { enabled0 with seq.pc := p, seq.xfer := x, seq.op := op, seq.dev := 0x46, seq.reg := 0x90, seq.mask := 0x3F
                  seq.data := 0x18 }

/-- A read transfer's descriptor, with the engine at a phase (R154). -/
def reading (p : Phase) (e : EngPhase) : State :=
  { at' p .rd 0x03 with
    cr.address := 0x46, cr.txdMaxcnt := 1, cr.rxdPtr := 2, cr.rxdMaxcnt := 1, cr.shorts := 0b011#3
    buf := [(0, 0x90)], eng := e }

/-- A write transfer's descriptor, with the engine at a phase (R155). -/
def writing (p : Phase) (e : EngPhase) : State :=
  { at' p .wr 0x04 with
    cr.address := 0x46, cr.txdMaxcnt := 2, cr.shorts := 0b100#3, buf := [(0, 0x90), (1, 0x18)], eng := e }

/-- ENABLED0 with turns settled. -/
def scheduled (l : List Turn) : State := { enabled0 with env.sched := l }

/-- A state stopped fatally. -/
def dead : State := { enabled0 with seq.pc := .fatal, seq.fault := true, seq.cause := .illegalCommand }

/-- The next state, where there is one. -/
def nextOf {α : Type} : Res α → Option α
  | .next a => some a
  | .fault _ => none
  | .refused _ => none

/-- The refusal, where there is one. -/
def refusalOf {α : Type} : Res α → Option Refusal
  | .next _ => none
  | .fault _ => none
  | .refused r => some r

/-- Is an answer a next state? -/
def goesOn {α : Type} (o : Res α) : Bool := (nextOf o).isSome

/-- The command a word decodes to, where it is legal. -/
def legal (pinCount : Nat) (w : CmdWord) : Option Instr := (decode pinCount w).toOption

/-! ### Well-formedness: an ill-formed term for each check -/

theorem test_wf_clock_pin : (Instr.enable 0x20 0x0B true).wf 32 = false := by decide
theorem test_wf_data_pin : (Instr.enable 0x0C 0x20 true).wf 32 = false := by decide
theorem test_wf_pins_ok : (Instr.enable 0x1F 0x1E true).wf 32 = true := by decide
theorem test_wf_pin_count_zero : { tmPar with pinCount := 0 }.wf = false := by decide
theorem test_wf_pin_count_257 : { tmPar with pinCount := 257 }.wf = false := by decide
theorem test_wf_poll_limit_zero : { tmPar with pollLimit := some 0 }.wf = false := by decide
theorem test_wf_buf_size : { tmPar with bufSize := 2 }.wf = false := by decide
theorem test_wf_fixed_pins : { tmPar with pinCount := 0x0C }.wf = false ∧ { tmPar with pinCount := 0x0D }.wf = true ∧
    { tmPar with pinSdaFixed := 0x0D, pinCount := 0x0D }.wf = false := by decide
theorem test_wf_rmap : { tmPar with rmap.chgEn := tmEntry 0x97 0x03 0 }.wf = false ∧
    { tmPar with pmicAddr := 0x47 }.wf = false := by decide
theorem test_wf_params_ok : tmPar.wf = true := by decide
/-- The counter-examples of spec/95_test_vectors.md 1.4. -/
theorem test_mask_law : (tmEntry 0 0x05 0).lawful = false ∧ (tmEntry 0 0x06 0).lawful = false ∧
    (tmEntry 0 0x00 0).lawful = false ∧ (tmEntry 0 0xE0 5).lawful = true := by decide
theorem test_one_bit : (tmEntry 0 0x03 0).oneBit = false ∧ (tmEntry 0 0x02 1).oneBit = true := by decide
theorem test_tm_lawful : tm.lawful 0x46 = true ∧ tm.distinctRegs = true := by decide
/-- U10: two entries that overlap in one register are accepted. -/
theorem test_rmap_overlap_accepted : { tm with chgEn := tmEntry 0x90 0x01 0 }.lawful 0x46 = true ∧
    { tm with chgEn := tmEntry 0x90 0x01 0 }.distinctRegs = false := by decide
theorem test_rmap_refused : { tm with buckVout := tmEntry 0x90 0x1F 0 }.lawful 0x46 = false ∧
    { tm with buckbstEn := tmEntry 0x92 0x03 0 }.lawful 0x46 = false ∧
    { tm with buckDischg := tmEntry 0x93 0x06 1 }.lawful 0x46 = false ∧
    { tm with chgEn := tmEntry 0x97 0x03 0 }.lawful 0x46 = false ∧
    { tm with vbusIlim := tmEntry 0x94 0x03 0 }.lawful 0x46 = false ∧
    { tm with chgCurrent := tmEntry 0x95 0x0F 0 }.lawful 0x46 = false ∧
    { tm with ocChg := tmEntry 0x96 0xC0 6 }.lawful 0x46 = false ∧
    { tm with buckbstVout := tmEntry 0x91 0x05 0 }.lawful 0x46 = false ∧
    { tm with ocChg := { dev := 0x47, reg := 0x96, mask := 0xE0, shift := 5 } }.lawful 0x46 = false := by decide

/-! ### Decoding: the words of spec/95_test_vectors.md 3.1 -/

theorem test_decode_enable : legal 256 0x010C0B0100 = some (.enable 0x0C 0x0B true) ∧
    legal 256 0x010C0B0000 = some (.enable 0x0C 0x0B false) ∧
    legal 256 0x01FFFE0100 = some (.enable 0xFF 0xFE true) ∧
    legal 256 0x0100000000 = some (.enable 0x00 0x00 false) := by decide
theorem test_decode_enable_illegal : legal 256 0x010C0B0200 = none ∧ legal 256 0x010C0B8100 = none ∧
    legal 256 0x010C0B0101 = none := by decide
theorem test_decode_pin_count_32 : legal 32 0x010C0B0100 = some (.enable 0x0C 0x0B true) ∧
    legal 32 0x01200B0100 = none ∧ legal 32 0x011F1E0100 = some (.enable 0x1F 0x1E true) := by decide
theorem test_decode_disable : legal 256 0x0200000000 = some .disable ∧ legal 256 0x0200000001 = none ∧
    legal 256 0x0246000000 = none := by decide
theorem test_decode_reg_read : legal 256 0x0346800000 = some (.regRead 0x46 0x80) ∧
    legal 256 0x037FFF0000 = some (.regRead 0x7F 0xFF) ∧
    legal 256 0x0300000000 = some (.regRead 0x00 0x00) := by decide
theorem test_decode_reg_read_illegal : legal 256 0x03C6800000 = none ∧ legal 256 0x0346800100 = none ∧
    legal 256 0x0346800001 = none := by decide
theorem test_decode_reg_write : legal 256 0x0446901800 = some (.regWrite 0x46 0x90 0x18) ∧
    legal 256 0x0446901801 = none ∧ legal 256 0x04C6901800 = none := by decide
theorem test_decode_reg_write_mask : legal 256 0x0546903F18 = some (.regWriteMask 0x46 0x90 0x3F 0x18) ∧
    legal 256 0x057FFFFFFF = some (.regWriteMask 0x7F 0xFF 0xFF 0xFF) ∧
    legal 256 0x05C6903F18 = none := by decide
theorem test_decode_reserved : legal 256 0x0000000000 = none ∧ legal 256 0x0600000000 = none ∧
    legal 256 0xFF00000000 = none := by decide
theorem test_decode_table_rows : decodeTableWord 40 0x0100000000 = some (.enable 0 0 false) ∧
    decodeTableWord 40 0x0200000000 = some .disable ∧ decodeTableWord 40 0x0300000000 = some (.regRead 0 0) ∧
    decodeTableWord 40 0x0400000000 = some (.regWrite 0 0 0) ∧
    decodeTableWord 40 0x0500000000 = some (.regWriteMask 0 0 0 0) ∧ decodeTableWord 48 0x0200000000 = none := by decide

/-! ### Single steps -/

/-- V-EN1 and V-EN2: both rates; PSEL_SCL = 0x10C, PSEL_SDA = 0x10B. -/
theorem test_enable : (nextOf (exec (.enable 0x0C 0x0B true) reset0)).map (fun t => t.cr) = some enabled0.cr := by decide
theorem test_enable_equal_pins : refusalOf (exec (.enable 0x0C 0x0C false) reset0) = some .equalPins := by decide
/-- R132: the pins stay bound. -/
theorem test_disable : (nextOf (exec .disable enabled0)).map (fun t => (t.cr.enable, t.cr.pselScl, t.seq.resps)) =
    some (false, 0x10C, [0x00]) := by decide
theorem test_reg_read : (nextOf (exec (.regRead 0x46 0x80) enabled0)).map
    (fun t => (t.seq.op, t.seq.dev, t.seq.reg, t.seq.xfer, t.seq.pc)) =
      some (0x03, 0x46, 0x80, .rd, .setup) := by decide
theorem test_reg_write : (nextOf (exec (.regWrite 0x46 0x90 0x18) enabled0)).map
    (fun t => (t.seq.op, t.seq.mask, t.seq.data, t.seq.xfer, t.seq.pc)) =
      some (0x04, 0x00, 0x18, .wr, .setup) := by decide
theorem test_reg_write_mask : (nextOf (exec (.regWriteMask 0x46 0x90 0x3F 0x18) enabled0)).map
    (fun t => (t.seq.op, t.seq.mask, t.seq.data, t.seq.xfer)) = some (0x05, 0x3F, 0x18, .rd) := by decide
/-- F8b: an illegal word from RESET0. -/
theorem test_illegal_word : (nextOf (step (reset0.withFetchWord 40 0x0346800100))).map
    (fun t => (t.seq.pc, t.seq.fault, t.seq.cause.code, t.port)) = some (.fatal, true, 4, none) := by decide
/-- A placed word runs at once. -/
theorem test_fetch_word : (nextOf (step (State.reset.withFetchWord 40 0x0200000000))).map (fun t => t.seq.resps) =
    some [0x00] := by decide

/-- SETUP(RD) and SETUP(WR) of the write half of P2: BUF and the descriptor. -/
theorem test_setup_read : (nextOf (seqStep (at' .setup .rd 0x05))).map (fun t => (t.cr, t.buf)) =
    some ((reading .trigger .idle).cr, [(0, 0x90)]) := by decide
theorem test_setup_write : (nextOf (seqStep { at' .setup .wr 0x05 with seq.tmp := 0xC0 })).map
    (fun t => (t.cr, t.buf)) = some ((writing .trigger .idle).cr, [(0, 0x90), (1, 0xD8)]) := by decide
/-- V-E1, V-E2: TRIGGER. -/
theorem test_trigger : (nextOf (seqStep { reading .trigger .idle with cr.txdAmount := 2, cr.rxdAmount := 1 })).map
      (fun t => (t.cr.txdAmount, t.cr.rxdAmount, t.eng, t.seq.pc)) = some (0, 0, .txAddr, .poll) ∧
    (nextOf (seqStep { reading .trigger .idle with cr.txdAmount := 2, cr.enable := false })).map
      (fun t => (t.cr.txdAmount, t.eng, t.seq.pc)) = some (2, .idle, .poll) := by decide
/-- The poll limit of spec/95_test_vectors.md 3.7: with `some 5`, four polls that read 0 go on and the fifth is fatal; it
writes the fault record and `pc` only (R290). -/
theorem test_poll_limit :
    (nextOf (seqStep { writing .poll .stopping with par.pollLimit := some 5, seq.pollCnt := 3 })).map
      (fun t => (t.seq.pc, t.seq.pollCnt)) = some (.poll, 4) ∧
    (nextOf (seqStep { writing .poll .stopping with par.pollLimit := some 5, seq.pollCnt := 4 })).map
      (fun t => (t.seq.pc, t.seq.cause, t.seq.pollCnt)) = some (.fatal, .pollTimeout, 4) := by decide
/-- The table of verdicts, spec/95_test_vectors.md 3.7. -/
theorem test_verdict : verdict false 9 9 .rd = .wait ∧ verdict true 1 1 .rd = .ok ∧
    verdict true 0 0 .rd = .fatal .countMismatchRd ∧ verdict true 1 0 .rd = .fatal .countMismatchRd ∧
    verdict true 0 1 .rd = .fatal .countMismatchRd ∧ verdict true 2 1 .rd = .fatal .countMismatchRd ∧
    verdict true 1 2 .rd = .fatal .countMismatchRd ∧ verdict true 2 7 .wr = .ok ∧
    verdict true 0 1 .wr = .fatal .countMismatchWr ∧ verdict true 1 1 .wr = .fatal .countMismatchWr ∧
    verdict true 3 1 .wr = .fatal .countMismatchWr := by decide
/-- CLEAR(WR) does not write receive-done (R158). -/
theorem test_clear_write : (nextOf (seqStep { at' .clear .wr 0x04 with
      cr.eventsTxDone := true, cr.eventsRxDone := true, cr.eventsStopped := true })).map
    (fun t => (t.cr.eventsTxDone, t.cr.eventsRxDone, t.cr.eventsStopped)) = some (false, true, false) := by decide
/-- COMPLETE(RD) of REG_WRITE_MASK responds nothing (R159). -/
theorem test_complete_read : (nextOf (seqStep { at' .complete .rd 0x05 with buf := [(2, 0xC0)] })).map
    (fun t => (t.seq.tmp, t.seq.resps, t.seq.pc, t.seq.xfer)) = some (0xC0, [], .setup, .wr) := by decide

/-- `Merge`, the table of spec/95_test_vectors.md 3.5. -/
theorem test_merge : merge 0x00 0x3F 0x18 = 0x18 ∧ merge 0xC0 0x3F 0x18 = 0xD8 ∧ merge 0xFF 0x3F 0x18 = 0xD8 ∧
    merge 0xFF 0x01 0x00 = 0xFE ∧ merge 0x00 0x01 0xFF = 0x01 ∧ merge 0xA5 0x00 0xFF = 0xA5 ∧
    merge 0xA5 0xFF 0x3C = 0x3C ∧ merge 0xA5 0xE0 0xE0 = 0xE5 ∧ merge 0x5A 0x1F 0x1F = 0x5F ∧
    merge 0xD8 0x3F 0x18 = 0xD8 ∧ merge 0xA5 0x01 0x00 = 0xA4 ∧ merge 0x00 0x05 0xFF = 0x05 := by decide

/-! The engine's steps, spec/95_test_vectors.md 3.6. -/

/-- V-E3, V-E4 (device 0x47), V-E5. -/
theorem test_eng_txaddr :
    (nextOf (engStep (reading .poll .txAddr))).map (fun t => (t.wire, t.eng)) =
      some ([.start, .sent 0x8C .a], .txData) ∧
    (nextOf (engStep { reading .poll .txAddr with cr.address := 0x47 })).map (fun t => (t.wire, t.eng)) =
      some ([.start, .sent 0x8E .n], .stalled) ∧
    (nextOf (engStep { reading .poll .txAddr with dev.inject := [⟨1, none, .abort⟩] })).map (fun t => (t.wire, t.eng)) =
      some ([.start], .stopping) := by decide
/-- V-E6. -/
theorem test_eng_txdata : (nextOf (engStep { writing .poll .txData with cr.txdAmount := 1, dev.simPtr := 0x90 })).map
    (fun t => (t.wire, t.cr.txdAmount, storeByte t.dev 0x90)) = some ([.sent 0x18 .a], 2, 0x18) := by decide
/-- V-E7 to V-E12, V-E20: the shortcut taken by E-LASTTX. -/
theorem test_eng_lasttx :
    [0b011#3, 0b100#3, 0b000#3, 0b010#3, 0b001#3, 0b110#3].map
      (fun k => (nextOf (engStep { writing .poll .txData with cr.txdAmount := 2, cr.shorts := k })).map
        (fun t => t.eng)) =
      [some .rxAddr, some .stopping, some .stalled, some .stalled, some .rxAddr, some .stopping] ∧
    (nextOf (engStep { writing .poll .txData with cr.txdMaxcnt := 0 })).map
      (fun t => (t.wire, t.cr.eventsTxDone, t.eng)) = some ([], true, .stopping) := by decide
/-- V-E13. -/
theorem test_eng_lasttx_refused : [0b101#3, 0b111#3].map
    (fun k => refusalOf (engStep { writing .poll .txData with cr.txdAmount := 2, cr.shorts := k })) =
      [some .bothTxDoneLinks, some .bothTxDoneLinks] := by decide
/-- V-E14. -/
theorem test_eng_rxaddr : (nextOf (engStep (reading .poll .rxAddr))).map (fun t => (t.wire, t.eng)) =
    some ([.repStart, .sent 0x8D .a], .rxData) := by decide
/-- V-E15. -/
theorem test_eng_rxdata : (nextOf (engStep { reading .poll .rxData with dev.inject := [⟨1, none, .byte 0x7E⟩] })).map
    (fun t => (bufByte t 2, t.cr.rxdAmount, t.wire)) = some (some 0x7E, 1, [.got 0x7E .n]) := by decide
/-- V-E16, V-E17. -/
theorem test_eng_lastrx : [0b011#3, 0b001#3].map
    (fun k => (nextOf (engStep { reading .poll .rxData with cr.rxdAmount := 1, cr.shorts := k })).map
      (fun t => (t.cr.eventsRxDone, t.eng))) = [some (true, .stopping), some (true, .stalled)] := by decide
/-- V-E18. -/
theorem test_eng_stop : (nextOf (engStep (writing .poll .stopping))).map
    (fun t => (t.wire, t.cr.eventsStopped, t.eng)) = some ([.stop], true, .idle) := by decide
/-- T4: the reserved bits of a simulated byte keep their value, 0x5A written over 0x30 under 0xF0 gives 0x3A. -/
theorem test_simdev_reserved : storeByte (simStoreByte 0x5A
    { Device.initial with simPtr := 0x9A, simStore := [(0x9A, 0x30)], simRsvd := [(0x9A, 0xF0)] }) 0x9A = 0x3A := by decide

/-- The ten operations under TM, spec/95_test_vectors.md 3.9. -/
theorem test_pseudo_words : wordsOf (expand tmPar .new) = [0x010C0B0100, 0x0346800000, 0x0346810000] ∧
    wordsOf (expand { tmPar with idCheck := false } .new) = [0x010C0B0100] ∧
    wordsOf (expand tmPar .release) = [0x0200000000] ∧
    [ConfigOp.buck1v8Set, .buckbst3v3Set, .buckbstEnable true, .buckbstEnable false, .buckDischargeSet true,
      .buckDischargeSet false, .vbusCurrentSet 0x07, .vbusCurrentSet 0x0F, .chargerCurrentSet 0x1F,
      .ocChgCurrentSet 0x07, .ocChgCurrentSet 0x09, .chargingEnable true, .chargingEnable false].map
        (fun op => wordsOf (expand tmPar (.config op))) =
      [[0x0546903F18], [0x0546913F13], [0x0546920101], [0x0546920100], [0x0546930202], [0x0546930200],
        [0x0546940707], [0x054694070F], [0x0546951F1F], [0x054696E0E0], [0x054696E020], [0x0546970101],
        [0x0546970100]] := by decide

/-- V-RST1 and V-RST3: reset leaves a hang; after reset no agent has an enabled step. -/
theorem test_reset : (resetEvent (reading .poll .stalled)).seq.pc = .idle ∧
    (resetEvent (reading .poll .stalled)).cr.enable = false ∧ enabledAgents State.reset = [] := by decide
/-- After a hang and a reset the rest of the host's program does not run (R263). -/
theorem test_reset_ends_program : (resetEvent (loadHost (expand tmPar .release) (reading .poll .stalled))).host.todo = [] ∧
    hostEnabled (resetEvent (loadHost (expand tmPar .release) (reading .poll .stalled))) = false := by decide
/-- HOST presents its first word and waits (R130). -/
theorem test_host_present : (hostStep (loadHost (expand tmPar .release) enabled0)).port = some 0x0200000000 ∧
    hostEnabled (hostStep (loadHost (expand tmPar .release) enabled0)) = false := by decide

/-! ### A state and operands that meet the hypotheses of each statement, every clause at a boundary -/

/-- The invariant, checked phase by phase. -/
def invHolds (s : State) : Bool :=
  decide (s.par.wf = true ∧ memoriesWf s) && decide (faultRecorded s ∧ receivedByteKept s) &&
    match s.seq.pc with
    | .idle => decide (clean s)
    | .setup => decide (clean s ∧ opFits s)
    | .trigger => decide (clean s ∧ opFits s ∧ descriptorReady s)
    | .poll => decide (opFits s ∧ descriptorReady s) && decide (noReadPhaseInWrite s ∧ pollCoherent s)
    | .check => decide (opFits s ∧ stoppedClean s)
    | .clear => decide (opFits s ∧ stoppedClean s ∧ (s.seq.xfer = .rd → s.cr.rxdAmount = 0x01))
    | .complete => decide (opFits s ∧ clean s ∧ (s.seq.xfer = .rd → bufWritten s 2 = true))
    | .fatal => decide (s.eng ≠ .idle → descriptorReady s ∧ noReadPhaseInWrite s)

theorem inv_of_invHolds {s : State} (h : invHolds s = true) : Inv s := by
  simp only [invHolds, Bool.and_eq_true, decide_eq_true_eq] at h
  obtain ⟨⟨⟨h1, h2⟩, h3, h4⟩, h5⟩ := h
  refine ⟨h1, h2, h3, h4, ?_⟩
  cases hp : s.seq.pc <;> rw [hp] at h5 <;> simp only [Bool.and_eq_true, decide_eq_true_eq] at h5 <;>
    refine ⟨?_, ?_, ?_, ?_, ?_, ?_, ?_, ?_⟩ <;> intro e <;>
    first
      | exact h5
      | exact ⟨h5.1.1, h5.1.2, h5.2⟩
      | cases hp.symm.trans e

theorem test_meets_DecodeEncodeRoundTrip : (Instr.enable 0xFF 0xFF false).wf 256 = true ∧
    (Instr.enable 0x1F 0x00 true).wf 32 = true ∧ Instr.disable.wf 1 = true ∧ (Instr.regRead 0x7F 0xFF).wf 1 = true ∧
    (Instr.regWrite 0x00 0x00 0xFF).wf 1 = true ∧ (Instr.regWriteMask 0x7F 0xFF 0x00 0xFF).wf 1 = true := by decide
theorem test_meets_EncodeOfDecodedWord : decode 256 0x01FFFE0100 = .ok (.enable 0xFF 0xFE true) ∧
    decode 1 0x057FFFFFFF = .ok (.regWriteMask 0x7F 0xFF 0xFF 0xFF) := ⟨rfl, rfl⟩
theorem test_meets_IllegalWordsRejected : opField 0x0000000000 = 0x00 ∧ 0x06 ≤ (opField 0x0600000000).toNat ∧
    0x06 ≤ (opField 0xFF00000000).toNat ∧
    (opField 0x010C0B0200 = (Instr.enable 0 0 false).opcode ∧
      0x010C0B0200 &&& (Instr.enable 0 0 false).tableMask ≠ (Instr.enable 0 0 false).tableMatch) ∧
    (opField 0x0246000000 = Instr.disable.opcode ∧ 0x0246000000 &&& Instr.disable.tableMask ≠ Instr.disable.tableMatch) ∧
    ((0x01200B0100 : CmdWord) &&& 0xFF0000FEFF = 0x0100000000 ∧
      ¬((aField 0x01200B0100).toNat < 32 ∧ (bField 0x01200B0100).toNat < 32)) ∧
    decode reset0.par.pinCount 0x0600000000 = .error .reservedOpcode := by
  refine ⟨by decide, by decide, by decide, by decide, by decide, by decide, rfl⟩
/-- One clause each: an ok word, an illegal word, the sole enabled agent, a placed word. -/
theorem test_meets_StepRunsDecodedCommand :
    decode (reset0.withFetchWord 40 0x0346800000).par.pinCount 0x0346800000 = .ok (.regRead 0x46 0x80) ∧
    decode (reset0.withFetchWord 40 0x0346800100).par.pinCount 0x0346800100 = .error .reservedFieldNotZero ∧
    (reset0.withFetchWord 40 0x0346800000).env.sched = .agent .seq :: [] ∧
    enabledAgents { reset0 with port := some 0x0200000000 } = [.seq] ∧
    { reset0 with port := some 0x0200000000 }.env.sched = [] := by
  refine ⟨rfl, rfl, rfl, by decide, rfl⟩
theorem test_meets_AcceptStepByCommand : reset0.seq.pc = .idle ∧
    decode reset0.par.pinCount 0x0600000000 = .error .reservedOpcode ∧
    decode reset0.par.pinCount 0x010C0B0100 = .ok (.enable 0x0C 0x0B true) ∧
    decode reset0.par.pinCount 0x0200000000 = .ok .disable ∧
    decode reset0.par.pinCount 0x037FFF0000 = .ok (.regRead 0x7F 0xFF) ∧
    decode reset0.par.pinCount 0x0446901800 = .ok (.regWrite 0x46 0x90 0x18) ∧
    decode reset0.par.pinCount 0x0546903F18 = .ok (.regWriteMask 0x46 0x90 0x3F 0x18) ∧
    dead.seq.pc ≠ .idle ∧ (goesOn (seqStep dead) = true) := by
  refine ⟨rfl, rfl, rfl, rfl, rfl, rfl, rfl, by decide, by decide⟩
theorem test_meets_control_commands : enabled0.seq.pc = .idle ∧ reset0.seq.pc = .idle ∧ (0xFF : Byte) ≠ 0xFE ∧
    goesOn (exec .disable enabled0) = true ∧ goesOn (exec (.enable 0xFF 0xFE false) enabled0) = true := by decide
theorem test_meets_transfer_accept : goesOn (exec (.regRead 0x7F 0xFF) enabled0) = true ∧
    goesOn (exec (.regWrite 0x00 0x00 0xFF) reset0) = true ∧
    goesOn (exec (.regWriteMask 0x46 0x90 0x00 0xFF) enabled0) = true := by decide
/-- The engine first. -/
theorem test_meets_RegReadCompletes : ∃ (s : State) (l rest : List Turn),
    Inv s ∧ s.seq.pc = .idle ∧ s.cr.enable = true ∧ s.par.pollLimit = none ∧ PlainSimdev s.dev 0x46 ∧
    Interleaving l 6 ∧ s.env.sched = transferTurns l ++ rest :=
  ⟨scheduled (transferTurns (List.replicate 6 (.agent .eng)) ++ [.agent .host]), List.replicate 6 (.agent .eng),
    [.agent .host], inv_of_invHolds (by decide), rfl, rfl, rfl, ⟨rfl, rfl, rfl, rfl⟩, ⟨by decide, by decide⟩, rfl⟩
/-- Polls and engine steps by turns. -/
theorem test_meets_RegWriteCompletes : ∃ (s : State) (l rest : List Turn),
    Inv s ∧ s.seq.pc = .idle ∧ s.cr.enable = true ∧ s.par.pollLimit = none ∧ PlainSimdev s.dev 0x46 ∧
    Interleaving l 4 ∧ s.env.sched = transferTurns l ++ rest :=
  ⟨scheduled (transferTurns (List.replicate 4 [Turn.agent .seq, .agent .eng]).flatten ++ []),
    (List.replicate 4 [Turn.agent .seq, .agent .eng]).flatten, [], inv_of_invHolds (by decide), rfl, rfl, rfl,
    ⟨rfl, rfl, rfl, rfl⟩, ⟨by decide, by decide⟩, rfl⟩
theorem test_meets_RegWriteMaskCompletes : ∃ (s : State) (l l' rest : List Turn),
    Inv s ∧ s.seq.pc = .idle ∧ s.cr.enable = true ∧ s.par.pollLimit = none ∧ PlainSimdev s.dev 0x46 ∧
    Interleaving l 6 ∧ Interleaving l' 4 ∧ s.env.sched = transferTurns l ++ (transferTurns l' ++ rest) :=
  ⟨scheduled (transferTurns (List.replicate 6 (.agent .eng)) ++
      (transferTurns (List.replicate 4 (.agent .eng)) ++ [.reset])), List.replicate 6 (.agent .eng),
    List.replicate 4 (.agent .eng), [.reset], inv_of_invHolds (by decide), rfl, rfl, rfl, ⟨rfl, rfl, rfl, rfl⟩,
    ⟨by decide, by decide⟩, ⟨by decide, by decide⟩, rfl⟩
theorem test_meets_SetupReadStep : (at' .setup .rd 0x03).seq.pc = .setup ∧ (at' .setup .rd 0x03).seq.xfer = .rd ∧
    3 ≤ (at' .setup .rd 0x03).par.bufSize ∧ 3 ≤ { tmPar with bufSize := 3 }.bufSize := by decide
theorem test_meets_SetupWriteStep : (at' .setup .wr 0x04).seq.op = 0x04 ∧ (at' .setup .wr 0x05).seq.op = 0x05 ∧
    (at' .setup .wr 0x05).seq.pc = .setup ∧ (at' .setup .wr 0x05).seq.xfer = .wr ∧
    3 ≤ (at' .setup .wr 0x05).par.bufSize := by decide
theorem test_meets_TriggerStep : (reading .trigger .idle).seq.pc = .trigger ∧ (reading .trigger .idle).cr.enable = true ∧
    (reading .trigger .idle).eng = .idle ∧ (reading .trigger .stalled).eng ≠ .idle ∧
    { reading .trigger .idle with cr.enable := false }.cr.enable = false := by decide
theorem test_meets_PollStep : (writing .poll .idle).seq.pc = .poll ∧ (writing .poll .idle).cr.eventsStopped = false ∧
    (writing .poll .idle).par.pollLimit = none ∧ (writing .poll .idle).seq.pollCnt + 1 < 2 ∧
    1 ≤ (writing .poll .idle).seq.pollCnt + 1 ∧
    { writing .poll .idle with cr.eventsStopped := true }.cr.eventsStopped = true ∧
    { writing .poll .idle with par.pollLimit := some 1 }.par.pollLimit = some 1 := by decide
theorem test_meets_CheckStep : (reading .check .idle).seq.pc = .check ∧ (reading .check .idle).seq.xfer = .rd ∧
    (reading .check .idle).cr.txdAmount ≠ 1 ∧ (writing .check .idle).seq.xfer = .wr ∧
    (writing .check .idle).cr.txdAmount ≠ 2 ∧
    { reading .check .idle with cr.txdAmount := 1, cr.rxdAmount := 1 }.cr.rxdAmount = 1 ∧
    { writing .check .idle with cr.txdAmount := 2 }.cr.txdAmount = 2 := by decide
theorem test_meets_ClearStep : (reading .clear .idle).seq.pc = .clear ∧ (reading .clear .idle).seq.xfer = .rd ∧
    (writing .clear .idle).seq.xfer = .wr := by decide
theorem test_meets_CompleteStep : bufByte { reading .complete .idle with buf := [(2, 0x7E)] } 2 = some 0x7E ∧
    (reading .complete .idle).seq.op = 0x03 ∧ (at' .complete .rd 0x05).seq.op = 0x05 ∧
    (writing .complete .idle).seq.xfer = .wr ∧ (reading .complete .idle).seq.pc = .complete ∧
    3 ≤ (reading .complete .idle).par.bufSize := by decide
/-- Every phase has a step that answers a next state. -/
theorem test_meets_PhaseGraph : [enabled0, at' .setup .rd 0x03, reading .trigger .idle, reading .poll .idle,
    { reading .poll .idle with cr.eventsStopped := true }, { reading .poll .idle with par.pollLimit := some 1 },
    reading .check .idle, writing .check .idle, reading .clear .idle, writing .complete .idle,
    { reading .complete .idle with buf := [(2, 0)] }, { at' .complete .rd 0x05 with buf := [(2, 0)] }, dead,
    { enabled0 with port := some 0x0600000000 }, { enabled0 with port := some 0x0200000000 },
    { enabled0 with port := some 0x037FFF0000 }].map
      (fun s => goesOn (seqStep s)) = List.replicate 16 true := by decide
/-- The device's three answers to the two address questions. -/
theorem test_meets_EngTxAddrStep :
    (devAddrAck 0#1 (reading .poll .txAddr)).1 = .ack ∧
    (devAddrAck 0#1 { reading .poll .txAddr with cr.address := 0x7F }).1 = .nack ∧
    (devAddrAck 0#1 { reading .poll .txAddr with dev.inject := [⟨1, none, .abort⟩] }).1 = .abort := by decide
theorem test_meets_EngRxAddrStep :
    (devAddrAck 1#1 (reading .poll .rxAddr)).1 = .ack ∧
    (devAddrAck 1#1 { reading .poll .rxAddr with cr.address := 0x00 }).1 = .nack ∧
    (devAddrAck 1#1 { reading .poll .rxAddr with dev.inject := [⟨1, none, .abort⟩] }).1 = .abort ∧
    (reading .poll .rxAddr).cr.enable = true ∧ (reading .poll .rxAddr).eng = .rxAddr := by decide
/-- Each answer to a payload byte; the last byte of BUF and the first one past it; a byte nothing has written. -/
theorem test_meets_EngTxDataStep : (writing .poll .txData).cr.txdAmount.toNat < (writing .poll .txData).cr.txdMaxcnt.toNat ∧
    (nextOf (devWriteByte 0 0x90 (writing .poll .txData))).map Prod.fst = some .ack ∧
    (nextOf (devWriteByte 0 0x90 { writing .poll .txData with dev.inject := [⟨1, none, .nack⟩] })).map Prod.fst = some .nack ∧
    (nextOf (devWriteByte 0 0x90 { writing .poll .txData with dev.inject := [⟨1, none, .abort⟩] })).map Prod.fst =
      some .abort ∧
    { writing .poll .txData with cr.txdPtr := 3 }.cr.txdPtr.toNat + 0 < (writing .poll .txData).par.bufSize ∧
    bufByte { writing .poll .txData with cr.txdPtr := 3 } 3 = none ∧
    (writing .poll .txData).par.bufSize ≤ { writing .poll .txData with cr.txdPtr := 4 }.cr.txdPtr.toNat + 0 := by decide
theorem test_meets_PhaseCompletionSteps : (0b011#3).getLsbD 0 = true ∧ (0b011#3).getLsbD 2 = false ∧
    (0b100#3).getLsbD 0 = false ∧ (0b100#3).getLsbD 2 = true ∧ (0b010#3).getLsbD 0 = false ∧
    (0b010#3).getLsbD 1 = true ∧ (0b101#3).getLsbD 0 = true ∧ (0b101#3).getLsbD 2 = true ∧
    (0b101#3).getLsbD 1 = false ∧
    { reading .poll .rxData with cr.rxdAmount := 1 }.cr.rxdAmount = (reading .poll .rxData).cr.rxdMaxcnt ∧
    { reading .poll .txData with cr.txdAmount := 1 }.cr.txdAmount = (reading .poll .txData).cr.txdMaxcnt ∧
    (reading .poll .rxData).cr.enable = true ∧ (reading .poll .rxData).eng = .rxData := by decide
theorem test_meets_EngRxDataStep :
    (nextOf (devReadByte 0 (reading .poll .rxData))).map Prod.fst = some (.byte 0x00) ∧
    (nextOf (devReadByte 0 { reading .poll .rxData with dev.inject := [⟨1, none, .abort⟩] })).map Prod.fst = some .abort ∧
    (reading .poll .rxData).cr.rxdAmount.toNat < (reading .poll .rxData).cr.rxdMaxcnt.toNat ∧
    { reading .poll .rxData with cr.rxdPtr := 3 }.cr.rxdPtr.toNat + 0 < (reading .poll .rxData).par.bufSize ∧
    (reading .poll .rxData).par.bufSize ≤ { reading .poll .rxData with cr.rxdPtr := 4 }.cr.rxdPtr.toNat + 0 := by decide
theorem test_meets_StopAndStalled : (writing .poll .stopping).cr.enable = true ∧ (writing .poll .stopping).eng = .stopping ∧
    (writing .poll .stalled).eng = .stalled ∧ reset0.cr.enable = false ∧ (reading .trigger .idle).eng = .idle ∧
    noReset (reading .trigger .idle) ∧
    (nextOf (step (reading .trigger .idle))).map (fun t => t.eng) = some .txAddr ∧
    noReset (writing .poll .stalled) ∧ (writing .poll .stalled).seq.pc = .poll ∧
    (writing .poll .stalled).cr.eventsStopped = false ∧ (writing .poll .stalled).par.pollLimit = none ∧
    goesOn (step (writing .poll .stalled)) = true := by
  refine ⟨rfl, rfl, rfl, rfl, rfl, ?_, by decide, ?_, rfl, rfl, rfl, by decide⟩ <;> unfold noReset <;> decide
theorem test_meets_EngineFrame : [EngPhase.idle, .txAddr, .txData, .rxAddr, .rxData, .stopping, .stalled].map
    (fun e => goesOn (engStep (writing .poll e))) = List.replicate 7 true := by decide
theorem test_meets_NominalRead : (reading .poll .txAddr).cr.enable = true ∧ (reading .poll .txAddr).eng = .txAddr ∧
    3 ≤ (reading .poll .txAddr).par.bufSize ∧ (reading .poll .txAddr).cr.address = 0x46 ∧
    (reading .poll .txAddr).dev.WellBehaved 0x46 ∧ bufByte (reading .poll .txAddr) 0 = some 0x90 ∧
    (reading .poll .txAddr).cr.shorts = 0b011#3 ∧ (reading .poll .txAddr).cr.txdPtr = 0 ∧
    (reading .poll .txAddr).cr.txdMaxcnt = 1 ∧ (reading .poll .txAddr).cr.txdAmount = 0 ∧
    (reading .poll .txAddr).cr.rxdPtr = 2 ∧ (reading .poll .txAddr).cr.rxdMaxcnt = 1 ∧
    (reading .poll .txAddr).cr.rxdAmount = 0 := by
  refine ⟨rfl, rfl, by decide, rfl, ⟨rfl, fun _ _ => ⟨rfl, nofun⟩⟩, by decide, rfl, rfl, rfl, rfl, rfl, rfl, rfl⟩
theorem test_meets_NominalWrite : (writing .poll .txAddr).cr.enable = true ∧ (writing .poll .txAddr).eng = .txAddr ∧
    3 ≤ (writing .poll .txAddr).par.bufSize ∧ (writing .poll .txAddr).cr.address = 0x46 ∧
    (writing .poll .txAddr).dev.WellBehaved 0x46 ∧ bufByte (writing .poll .txAddr) 0 = some 0x90 ∧
    bufByte (writing .poll .txAddr) 1 = some 0x18 ∧ (writing .poll .txAddr).cr.shorts = 0b100#3 ∧
    (writing .poll .txAddr).cr.txdPtr = 0 ∧ (writing .poll .txAddr).cr.txdMaxcnt = 2 ∧
    (writing .poll .txAddr).cr.txdAmount = 0 ∧ (writing .poll .txAddr).cr.rxdAmount = 0 ∧
    (writing .poll .txAddr).cr.eventsRxDone = false := by
  refine ⟨rfl, rfl, by decide, rfl, ⟨rfl, fun _ _ => ⟨rfl, nofun⟩⟩, by decide, by decide, rfl, rfl, rfl, rfl, rfl, rfl⟩
/-- R79 looks at one device address only: an answer placed for another device, and a placed ACK, leave SIMDEV well-behaved;
the injected NACK of spec/95_test_vectors.md 1.2 does not, and SIMDEV is well-behaved for no other address. -/
theorem test_well_behaved_per_address :
    { reset0.dev with inject := [⟨1, some 0x47, .nack⟩, ⟨2, some 0x46, .ack⟩] }.WellBehaved 0x46 ∧
    ¬ { reset0.dev with inject := [⟨1, none, .nack⟩] }.WellBehaved 0x46 ∧ ¬ reset0.dev.WellBehaved 0x47 := by
  refine ⟨⟨rfl, fun q _ => ?_⟩, fun h => absurd (h.2 1 (by decide)).1 (by decide), fun h => absurd h.1 (by decide)⟩
  simp only [injectedAck, injectedRead, injected_cons_other (a := 0x46) (b := 0x47) (by decide)]
  by_cases hq : q = 2
  · subst hq; decide
  · have hn : injected [⟨2, some 0x46, .ack⟩] q 0x46 = none := by simp [injected, Placed.applies, Ne.symm hq]
    rw [hn]; exact ⟨rfl, nofun⟩
/-- An ABORT in each of the four engine phases that ask. -/
theorem test_meets_AbortEndsTransaction : [EngPhase.txAddr, .txData, .rxAddr, .rxData].map
    (fun e => (nextOf (engStep { reading .poll e with dev.inject := [⟨1, none, .abort⟩] })).map (fun t => t.eng)) =
      List.replicate 4 (some .stopping) := by decide
theorem test_meets_SimdevAnswers : (writing .poll .txData).dev.kind = .simdev ∧
    injected (writing .poll .txData).dev.inject ((writing .poll .txData).dev.asked + 1)
      (writing .poll .txData).cr.address = none ∧
    memoriesWf { writing .poll .txData with
      dev.simStore := [(0x00, 0x30), (0xFF, 0x01)], dev.simRsvd := [(0x00, 0xF0)] } := by decide
/-- The turn that sends the second payload byte. -/
theorem test_meets_SimStoreFrame : noReset { writing .poll .txData with
      cr.txdAmount := 1, env.sched := [.agent .eng] } ∧
    mover { writing .poll .txData with cr.txdAmount := 1, env.sched := [.agent .eng] } = some .eng ∧
    (1 : Nat) < (writing .poll .txData).cr.txdMaxcnt.toNat ∧
    (nextOf (step { writing .poll .txData with cr.txdAmount := 1, env.sched := [.agent .eng] })).map
      (fun t => storeByte t.dev 0x00) = some 0x18 := by
  refine ⟨by unfold noReset; decide, rfl, by decide, by decide⟩
theorem test_meets_FatalEntryFrame : [reading .check .idle, writing .check .idle,
    { enabled0 with port := some 0x0600000000 },
    { writing .poll .stalled with par.pollLimit := some 1 }].map
      (fun s => (s.seq.fault, (nextOf (seqStep s)).map (fun t => t.seq.fault))) =
        List.replicate 4 (false, some true) := by decide
theorem test_meets_FatalAbsorbing : dead.seq.pc = .fatal ∧ noReset dead ∧
    Sys2Proof.core.run 0 { dead with port := some 0x0200000000 } =
      .next { dead with port := some 0x0200000000 } ∧ ∃ u, Sys2Proof.core.run 1 dead = .next u :=
  ⟨rfl, by unfold noReset; decide, rfl, _, rfl⟩
theorem test_meets_FaultRecordSticky : Inv dead ∧ dead.seq.fault = true ∧ noReset dead ∧ goesOn (step dead) = true := by
  refine ⟨inv_of_invHolds (by decide), rfl, by unfold noReset; decide, by decide⟩
/-- The three hangs: a stalled engine, an idle one, an inactive peripheral. -/
theorem test_meets_HangNeverEnds : hung (reading .poll .stalled) ∧ hung (reading .poll .idle) ∧
    hung { reading .poll .rxData with cr.enable := false } ∧ (reading .poll .stalled).par.pollLimit = none ∧
    noReset (reading .poll .stalled) := by
  refine ⟨⟨rfl, rfl, .inl rfl⟩, ⟨rfl, rfl, .inr (.inl rfl)⟩, ⟨rfl, rfl, .inr (.inr rfl)⟩, rfl, by unfold noReset; decide⟩
theorem test_meets_DisabledTransferHangs : Inv reset0 ∧ reset0.seq.pc = .idle ∧ reset0.cr.enable = false ∧
    { reset0 with env.sched := seqTurns 2 ++ [] }.env.sched = seqTurns 2 ++ [] :=
  ⟨inv_of_invHolds (by decide), rfl, rfl, rfl⟩
theorem test_meets_WrongDeviceHangs : Inv { enabled0 with env.sched := seqTurns 2 ++ (.agent .eng :: []) } ∧
    enabled0.seq.pc = .idle ∧ enabled0.cr.enable = true ∧ enabled0.dev.kind = .simdev ∧ enabled0.dev.inject = [] ∧
    (0x47 : DevAddr) ≠ enabled0.dev.simAddr := ⟨inv_of_invHolds (by decide), rfl, rfl, rfl, rfl, by decide⟩
theorem test_meets_ResetEventFromAnyState :
    { dead with env.sched := [.reset] }.env.sched = .reset :: [] ∧ dead.eng = .idle ∧
    goesOn (step { reading .poll .stalled with env.sched := [.reset] }) = true := by decide
/-- A step from a state that meets the invariant in every phase. -/
theorem test_meets_Inv : [enabled0, at' .setup .rd 0x03, reading .trigger .idle,
    { reading .poll .txAddr with env.sched := [.agent .eng] },
    { reading .check .idle with cr.eventsStopped := true }, { writing .clear .idle with cr.eventsStopped := true },
    writing .complete .idle, dead].map (fun s => (invHolds s, goesOn (step s))) =
      List.replicate 8 (true, true) := by decide
/-- The one refusal that a state with the invariant can meet. -/
theorem test_meets_OnlyEqualPinsStop : Inv { reset0 with port := some 0x010C0C0100 } ∧
    refusalOf (step { reset0 with port := some 0x010C0C0100 }) = some .equalPins :=
  ⟨inv_of_invHolds (by decide), by decide⟩
theorem test_meets_CleanIdleWhenReachable : Reachable reset0 ∧ reset0.seq.pc = .idle :=
  ⟨.launch _ ⟨by decide, by decide, rfl, rfl, rfl, by decide, by decide⟩, rfl⟩
theorem test_meets_OneTransactionAtATime : Inv (reading .trigger .idle) ∧ noReset (reading .trigger .idle) ∧
    (nextOf (step (reading .trigger .idle))).map (fun t => t.eng) = some .txAddr ∧
    Inv { writing .poll .idle with cr.eventsStopped := true } ∧
    (nextOf (step { writing .poll .idle with cr.eventsStopped := true })).map (fun t => t.seq.pc) = some .check := by
  refine ⟨inv_of_invHolds (by decide), by unfold noReset; decide, by decide, inv_of_invHolds (by decide), by decide⟩
theorem test_meets_EngineAtRestOutsidePoll : Inv { writing .poll .idle with cr.eventsStopped := true } ∧
    Inv (reading .trigger .idle) ∧ (reading .trigger .idle).seq.pc ≠ .fatal ∧
    (reading .trigger .idle).seq.pc ≠ .poll :=
  ⟨inv_of_invHolds (by decide), inv_of_invHolds (by decide), by decide, by decide⟩
/-- A step that grows the wire, and one that changes the control registers and takes the word. -/
theorem test_meets_machine_frames : noReset { reading .poll .txAddr with env.sched := [.agent .eng] } ∧
    (nextOf (step { reading .poll .txAddr with env.sched := [.agent .eng] })).map (fun t => t.wire) ≠
      some (reading .poll .txAddr).wire ∧
    noReset (reset0.withFetchWord 40 0x010C0B0100) ∧
    (nextOf (step (reset0.withFetchWord 40 0x010C0B0100))).map (fun t => (t.cr.enable, t.port)) = some (true, none) ∧
    mover (reset0.withFetchWord 40 0x010C0B0100) = some .seq := by
  refine ⟨by unfold noReset; decide, by decide, by unfold noReset; decide, by decide, rfl⟩
/-- A register write that has been accepted and waits for its SETUP, with the turns that complete it, polls and engine
steps by turns, and HOST's last. -/
def fairStart : State :=
  { at' .setup .wr 0x04 with
    host.awaiting := true
    env.sched := transferTurns (List.replicate 4 [Turn.agent .seq, .agent .eng]).flatten ++ [.agent .host] }

/-- The run from there. -/
def fairRun : Nat → State
  | 0 => fairStart
  | n + 1 => (nextOf (step (fairRun n))).getD (fairRun n)

theorem fairRun_goesOn : ∀ n < 16, goesOn (step (fairRun n)) = true := by decide
theorem fairRun_stays : nextOf (step (fairRun 16)) = some (fairRun 16) := by decide
theorem fairRun_quiet : enabledAgents (fairRun 16) = [] := by decide

theorem fairRun_late (n : Nat) : fairRun (16 + n) = fairRun 16 := by
  induction n with
  | zero => rfl
  | succ n ih => rw [← Nat.add_assoc, fairRun, ih, fairRun_stays, Option.getD_some]

theorem fairRun_isRun : IsRun fairRun := by
  intro n
  have h : goesOn (step (fairRun n)) = true := by
    by_cases hn : n < 16
    · exact fairRun_goesOn n hn
    · obtain ⟨k, rfl⟩ := Nat.exists_eq_add_of_le (Nat.le_of_not_lt hn)
      rw [fairRun_late, goesOn, fairRun_stays, Option.isSome_some]
  rw [fairRun]
  cases hs : step (fairRun n) with
  | next t => rfl
  | fault r => rw [hs] at h; cases h
  | refused r => rw [hs] at h; cases h

theorem fairRun_fair : WeaklyFair fairRun := by
  intro a n h
  have ha := h (16 + n) (Nat.le_add_left n 16)
  rw [fairRun_late] at ha
  have : a ∈ enabledAgents (fairRun 16) := List.mem_filter.2 ⟨by cases a <;> decide, ha⟩
  rw [fairRun_quiet] at this
  cases this

theorem test_meets_FairRunTakesEngineStep : IsRun fairRun ∧ WeaklyFair fairRun ∧ Inv (fairRun 0) ∧ noReset (fairRun 0) ∧
    engEnabled (fairRun 2) = true := by
  refine ⟨fairRun_isRun, fairRun_fair, inv_of_invHolds (by decide), by unfold noReset; decide, by decide⟩
theorem test_meets_FairRunCompletesTransfer : IsRun fairRun ∧ WeaklyFair fairRun ∧ Inv (fairRun 0) ∧
    noReset (fairRun 0) ∧ (fairRun 0).seq.pc = .setup ∧ (fairRun 0).cr.enable = true ∧
    (fairRun 0).par.pollLimit = none ∧ (fairRun 0).dev.WellBehaved (fairRun 0).seq.dev ∧ (fairRun 0).port = none ∧
    (fairRun 0).seq.respValid = false ∧ (fairRun 0).host.todo = [] ∧ (fairRun 0).host.awaiting = true ∧
    (fairRun 0).host.halted = false ∧ (fairRun 0).seq.op ≠ 0x03 := by
  refine ⟨fairRun_isRun, fairRun_fair, inv_of_invHolds (by decide), by unfold noReset; decide, rfl, rfl, rfl,
    ⟨rfl, fun _ _ => ⟨rfl, nofun⟩⟩, rfl, rfl, rfl, rfl, rfl, by decide⟩
theorem test_meets_HostPresentsWhenFree :
    (hostStep { enabled0 with host.todo := [.present 0x0200000000] }).port ≠
      { enabled0 with host.todo := [.present 0x0200000000] }.port ∧
    { enabled0 with seq.respValid := true, seq.respData := 0x5A, host.awaiting := true }.seq.respValid = true ∧
    enabled0.host.halted = false := by decide
/-- The last response equal to the expected identity byte, and not. -/
theorem test_meets_IdentityMismatchHaltsHost :
    { enabled0 with host.todo := [.expect 0x10], host.lastResp := 0x10 }.host.lastResp = 0x10 ∧
    { enabled0 with host.todo := [.expect 0x10], host.lastResp := 0x11 }.host.lastResp ≠ 0x10 ∧
    enabled0.host.halted = false ∧ enabled0.host.awaiting = false ∧ enabled0.seq.respValid = false := by decide
theorem test_meets_FieldAndBitWrites : (tmEntry 0x92 0x01 0).oneBit = true ∧ (tmEntry 0x9F 0x80 7).oneBit = true := by
  decide
theorem test_meets_BringUpSession : (tmPar.idCheck = true ∧ tmPar.rmap.distinctRegs = true) ∧
    [loadHost [.setOwner .layer] reset0, loadHost [.setLayer .released] reset0].map
      (fun s => (s.host.halted, s.host.awaiting, s.seq.respValid)) = List.replicate 2 (false, false, false) ∧
    [loadHost [.setOwner .layer] reset0, loadHost [.setLayer .released] reset0].map
      (fun s => ((hostStep s).host.owner, (hostStep s).host.layer, (hostStep s).host.todo.isEmpty)) =
      [(.layer, .absent, true), (.caller, .released, true)] := by decide
/-- The examples of R253 (with the identity check and the fixture) and R254, act by act. -/
theorem test_new_and_release_acts : expand tmPar .new = [.setOwner .layer, .present 0x010C0B0100,
      .present 0x0346800000, .expect 0x10, .present 0x0346810000, .expect 0x08, .setLayer .configuring] ∧
    expand tmPar .release = [.present 0x0200000000, .setLayer .released, .setOwner .caller] := by decide
theorem test_meets_RegisterSpaceRules : 0x10 ≤ (0x10 : Byte).toNat ∧ 0x10 ≤ (0xFF : Byte).toNat := by decide
theorem test_meets_VerdictOverPollAndCheck : (reading .poll .idle).seq.pc = .poll ∧
    (reading .poll .idle).par.pollLimit = none ∧
    verdict (reading .poll .idle).cr.eventsStopped 0 0 (reading .poll .idle).seq.xfer = .wait := by decide

end Sys2Proof.Tests
end

section
/-! SUPPORT. What a step of the engine, of HOST and the reset event leave, whichever step it is, beside `SeqFrame` for the
sequencer's; later proofs cite these and walk through no step again. -/

namespace Sys2Proof.Machine

/-! ### What a step of the engine leaves -/

/-- What an enabled step of the engine leaves, whichever it is: the sequencer, the port, HOST, the schedule, the parameters
and the registers SETUP and the control commands write; the store's form; BUF but for the byte received, which it counts. Of
its own phase: IDLE is reached with "stopped" generated, a read phase only by its link, and receive-done only in it (R190 to
R198). -/
abbrev EngFrame (s t : State) : Prop :=
  (t.seq = s.seq ∧ t.port = s.port ∧ t.host = s.host ∧ t.env = s.env ∧ t.par = s.par) ∧
    (t.cr.shorts = s.cr.shorts ∧ t.cr.enable = s.cr.enable ∧ t.cr.pselScl = s.cr.pselScl ∧
      t.cr.pselSda = s.cr.pselSda ∧ t.cr.frequency = s.cr.frequency ∧ t.cr.address = s.cr.address ∧
      t.cr.txdPtr = s.cr.txdPtr ∧ t.cr.txdMaxcnt = s.cr.txdMaxcnt ∧ t.cr.rxdPtr = s.cr.rxdPtr ∧
      t.cr.rxdMaxcnt = s.cr.rxdMaxcnt) ∧
    (t.dev.simRsvd = s.dev.simRsvd ∧
      (Memory.wf storeUnlisted 256 s.dev.simStore = true → Memory.wf storeUnlisted 256 t.dev.simStore = true)) ∧
    ((t.buf = s.buf ∧ t.cr.rxdAmount = s.cr.rxdAmount) ∨
      (s.eng = .rxData ∧ s.cr.rxdAmount.toNat < s.cr.rxdMaxcnt.toNat ∧
        s.cr.rxdPtr.toNat + s.cr.rxdAmount.toNat < s.par.bufSize ∧
        ∃ v, t.buf = memWrite bufUnlisted s.buf (s.cr.rxdPtr.toNat + s.cr.rxdAmount.toNat) v ∧
          t.cr.rxdAmount = s.cr.rxdAmount + 1)) ∧
    (s.eng ≠ .idle ∧ (t.eng = .idle → t.cr.eventsStopped = true) ∧
      (t.cr.eventsStopped = true → s.cr.eventsStopped = true ∨ t.eng = .idle) ∧
      (t.eng = .rxAddr → txDoneStartRx s = true) ∧ (t.eng = .rxData → s.eng = .rxAddr ∨ s.eng = .rxData) ∧
      (t.cr.eventsRxDone = true → s.cr.eventsRxDone = true ∨ s.eng = .rxData))

/-- A written byte leaves the simulated device's reserved bits, and its store in canonical form. -/
theorem DeviceAfterByte.memories {i : Nat} {b : Byte} {d d' : Device} (h : DeviceAfterByte i b d d') :
    d'.simRsvd = d.simRsvd ∧
      (Memory.wf storeUnlisted 256 d.simStore = true → Memory.wf storeUnlisted 256 d'.simStore = true) := by
  rcases h with rfl | ⟨_, _, rfl⟩ | ⟨_, _, rfl⟩
  · exact ⟨rfl, id⟩
  · exact ⟨rfl, id⟩
  · exact ⟨rfl, simStoreByte_wf b (countQuestion d)⟩

theorem engFrame_txAddr {s t : State} (hg : s.eng = .txAddr) (h : engTxAddr s = .next t) : EngFrame s t := by
  rw [engTxAddr_eq] at h
  cases h
  split <;> simp [EngFrame, hg, countQuestion]

theorem engFrame_lastTx {s t : State} (hg : s.eng = .txData) (h : engLastTx s = .next t) : EngFrame s t := by
  rcases engLastTx_cases s with ⟨hrx, _, e⟩ | ⟨_, _, e⟩ | ⟨_, _, e⟩ | ⟨_, _, e⟩ <;> rw [e] at h <;> cases h
  · simp [EngFrame, hg, hrx]
  · simp [EngFrame, hg]
  · simp [EngFrame, hg]

theorem engFrame_txData {s t : State} (hg : s.eng = .txData) (h : engTxData s = .next t) : EngFrame s t := by
  obtain ⟨_, d, _, hd, rfl | rfl | rfl⟩ := engTxData_next h <;> simpa [EngFrame, hg] using hd.memories

theorem engFrame_rxAddr {s t : State} (hg : s.eng = .rxAddr) (h : engRxAddr s = .next t) : EngFrame s t := by
  rw [engRxAddr_eq] at h
  cases h
  split <;> simp [EngFrame, hg, countQuestion]

theorem engFrame_lastRx {s t : State} (hg : s.eng = .rxData) (h : engLastRx s = .next t) : EngFrame s t := by
  cases h
  split <;> simp [EngFrame, hg]

theorem engFrame_rxData {s t : State} (hg : s.eng = .rxData) (hlt : s.cr.rxdAmount.toNat < s.cr.rxdMaxcnt.toNat)
    (h : engRxData s = .next t) : EngFrame s t := by
  rcases engRxData_next h with ⟨v, hsize, rfl⟩ | rfl
  · refine ⟨by simp, by simp, by simp [countQuestion], .inr ⟨hg, hlt, hsize, v, rfl, rfl⟩, by simp [hg]⟩
  · simp [EngFrame, hg, countQuestion]

theorem engFrame_stop {s t : State} (hg : s.eng = .stopping) (h : engStop s = .next t) : EngFrame s t := by
  cases h
  simp [EngFrame, hg]

/-- Everything a step of the engine leaves, whichever it is: all, or what an enabled one does (R190). -/
theorem engStep_frame {s t : State} (h : engStep s = .next t) : t = s ∨ (s.cr.enable = true ∧ EngFrame s t) := by
  rcases engStep_cases s with e | ⟨he, hg, e⟩ | ⟨he, hg, _, e⟩ | ⟨he, hg, _, e⟩ | ⟨he, hg, e⟩ | ⟨he, hg, _, e⟩ |
    ⟨he, hg, hlt, e⟩ | ⟨he, hg, e⟩ <;> rw [e] at h
  · cases h; exact .inl rfl
  · exact .inr ⟨he, engFrame_txAddr hg h⟩
  · exact .inr ⟨he, engFrame_lastTx hg h⟩
  · exact .inr ⟨he, engFrame_txData hg h⟩
  · exact .inr ⟨he, engFrame_rxAddr hg h⟩
  · exact .inr ⟨he, engFrame_lastRx hg h⟩
  · exact .inr ⟨he, engFrame_rxData hg hlt h⟩
  · exact .inr ⟨he, engFrame_stop hg h⟩

/-- The engine never writes the sequencer. -/
theorem engStep_seq {s t : State} (h : engStep s = .next t) : t.seq = s.seq := by
  rcases engStep_frame h with rfl | ⟨_, ⟨hseq, _⟩, _⟩
  · rfl
  · exact hseq

/-! ### BUF, HOST and the device across a reset -/

/-- A write to BUF lists its address and unlists none. -/
@[simp] theorem isSome_memLookup_bufWrite (m : Memory) (a b : Nat) (v : Byte) :
    (memLookup (memWrite bufUnlisted m a v) b).isSome = (b == a || (memLookup m b).isSome) := by
  have hw : memWrite bufUnlisted m a v = memInsert m a v := if_neg nofun
  by_cases h : b = a
  · subst h; simp [hw, memLookup_memInsert_same]
  · simp [hw, memLookup_memInsert_other m a b v h, h]

/-- HOST writes only the response's valid bit, the port and its own state (R299). -/
theorem hostStep_eq (s : State) :
    ∃ v p u, hostStep s = { s with seq.respValid := v, port := p, host := u } := by
  obtain ⟨hcr, hbuf, heng, hwire, hdev, henv, hpar, hseq⟩ := hostStep_block s
  refine ⟨(hostStep s).seq.respValid, (hostStep s).port, (hostStep s).host, ?_⟩
  rw [← hcr, ← hbuf, ← heng, ← hwire, ← hdev, ← henv, ← hpar, ← hseq]

/-- The device's memories stay in canonical form across a reset, cut short or not (R320, U6). -/
theorem deviceAfterReset_memories {s : State} (h : Memory.wf storeUnlisted 256 s.dev.simStore = true) :
    Memory.wf storeUnlisted 256 (deviceAfterReset s).simStore = true ∧ (deviceAfterReset s).simRsvd = s.dev.simRsvd := by
  unfold deviceAfterReset
  split
  · dsimp only
    split
    · exact ⟨storeWrite_wf _ _ _ h, rfl⟩
    · exact ⟨h, rfl⟩
  · exact ⟨h, rfl⟩

end Sys2Proof.Machine
end

section
/-! PROOF. The invariant is inductive: a launch state has it, and every step keeps it, the sequencer's phase by phase, the
engine's, HOST's and the reset event (R45, R82, R292). -/

namespace Sys2Proof.Machine

/-! ### The invariant at each phase -/

theorem phaseCoherent_idle {s : State} (h : s.seq.pc = .idle) : phaseCoherent s ↔ clean s := by simp [phaseCoherent, h]

theorem phaseCoherent_setup {s : State} (h : s.seq.pc = .setup) : phaseCoherent s ↔ clean s ∧ opFits s := by
  simp [phaseCoherent, h]

theorem phaseCoherent_trigger {s : State} (h : s.seq.pc = .trigger) :
    phaseCoherent s ↔ clean s ∧ opFits s ∧ descriptorReady s := by simp [phaseCoherent, h]

theorem phaseCoherent_poll {s : State} (h : s.seq.pc = .poll) :
    phaseCoherent s ↔ opFits s ∧ descriptorReady s ∧ noReadPhaseInWrite s ∧ pollCoherent s := by
  simp [phaseCoherent, h]

theorem phaseCoherent_check {s : State} (h : s.seq.pc = .check) : phaseCoherent s ↔ opFits s ∧ stoppedClean s := by
  simp [phaseCoherent, h]

theorem phaseCoherent_clear {s : State} (h : s.seq.pc = .clear) :
    phaseCoherent s ↔ opFits s ∧ stoppedClean s ∧ (s.seq.xfer = .rd → s.cr.rxdAmount = 0x01) := by
  simp [phaseCoherent, h]

theorem phaseCoherent_complete {s : State} (h : s.seq.pc = .complete) :
    phaseCoherent s ↔ opFits s ∧ clean s ∧ (s.seq.xfer = .rd → bufWritten s 2 = true) := by simp [phaseCoherent, h]

theorem phaseCoherent_fatal {s : State} (h : s.seq.pc = .fatal) :
    phaseCoherent s ↔ (s.eng ≠ .idle → descriptorReady s ∧ noReadPhaseInWrite s) := by simp [phaseCoherent, h]

theorem flagsClear_iff (s : State) : flagsClear s = true ↔
    s.cr.eventsTxDone = false ∧ s.cr.eventsRxDone = false ∧ s.cr.eventsStopped = false := by
  simp [flagsClear, and_assoc]

/-- The engine is away from IDLE only while the sequencer polls, or after a fatal halt, and then the descriptor is the
transfer's and a write has no read phase (R46, R82). -/
theorem Inv.engine_active {s : State} (hi : Inv s) (hg : s.eng ≠ .idle) :
    (s.seq.pc = .poll ∨ s.seq.pc = .fatal) ∧ descriptorReady s ∧ noReadPhaseInWrite s := by
  obtain ⟨_, _, _, _, hphase⟩ := hi
  cases hp : s.seq.pc with
  | idle =>
    obtain ⟨_, hidle⟩ := (phaseCoherent_idle hp).1 hphase
    exact absurd hidle hg
  | setup =>
    obtain ⟨⟨_, hidle⟩, _⟩ := (phaseCoherent_setup hp).1 hphase
    exact absurd hidle hg
  | trigger =>
    obtain ⟨⟨_, hidle⟩, _⟩ := (phaseCoherent_trigger hp).1 hphase
    exact absurd hidle hg
  | poll =>
    obtain ⟨_, hdesc, hno, _⟩ := (phaseCoherent_poll hp).1 hphase
    exact ⟨.inl rfl, hdesc, hno⟩
  | check =>
    obtain ⟨_, _, hidle, _⟩ := (phaseCoherent_check hp).1 hphase
    exact absurd hidle hg
  | clear =>
    obtain ⟨_, ⟨_, hidle, _⟩, _⟩ := (phaseCoherent_clear hp).1 hphase
    exact absurd hidle hg
  | complete =>
    obtain ⟨_, ⟨_, hidle⟩, _⟩ := (phaseCoherent_complete hp).1 hphase
    exact absurd hidle hg
  | fatal => exact ⟨.inr rfl, (phaseCoherent_fatal hp).1 hphase hg⟩

/-- What a move of the sequencer between two phases other than FATAL has to show. -/
theorem Inv.of_running {s t : State} {p : Phase} (hi : Inv s) (hp : s.seq.pc = p) (hs : p ≠ .fatal) (ht : t.seq.pc ≠ .fatal)
    (hfault : t.seq.fault = s.seq.fault) (hcause : t.seq.cause = s.seq.cause) (hpar : t.par = s.par)
    (hdev : t.dev = s.dev) (hbuf : Memory.wf bufUnlisted s.par.bufSize t.buf = true) (hkept : receivedByteKept t)
    (hphase : phaseCoherent t) : Inv t := by
  obtain ⟨hwf, ⟨_, hstore, hrsvd⟩, ⟨hfatal, hnone⟩, _, _⟩ := hi
  refine ⟨hpar ▸ hwf, ⟨hpar ▸ hbuf, hdev ▸ hstore, hdev ▸ hrsvd⟩, ⟨?_, ?_⟩, hkept, hphase⟩
  · rw [hfault, hfatal]
    exact iff_of_false (hp ▸ hs) ht
  · rw [hcause, hfault]
    exact hnone

/-- A fatal halt keeps the invariant: an engine that works on then has its descriptor from the poll (R292). -/
theorem inv_raiseFatal {c : Cause} {s : State} (hi : Inv s) (hc : c ≠ .none) : Inv (raiseFatal c s) := by
  have hactive := fun hg => (hi.engine_active hg).2
  obtain ⟨hwf, hmem, _, hkept, _⟩ := hi
  exact ⟨hwf, hmem, ⟨by simp, by simpa using hc⟩, hkept, (phaseCoherent_fatal rfl).2 hactive⟩

/-! ### The sequencer's steps -/

theorem inv_acceptWord {w : CmdWord} {s t : State} (hi : Inv s) (hp : s.seq.pc = .idle)
    (h : acceptWord w s = .next t) : Inv t := by
  have ⟨_, ⟨hbuf, _⟩, _, hkept, hphase⟩ := hi
  have hclean := (phaseCoherent_idle hp).1 hphase
  unfold acceptWord at h
  split at h
  next i _ =>
    rcases exec_idle_cases i s hp with ⟨_, _, _, e⟩ | ⟨_, _, _, _, _, e⟩ | ⟨_, e⟩ | ⟨_, _, _, _, _, _, hop, e⟩ <;>
      rw [e] at h <;> cases h
    · exact hi.of_running hp nofun nofun rfl rfl rfl rfl hbuf hkept ((phaseCoherent_idle rfl).2 hclean)
    · exact hi.of_running hp nofun nofun rfl rfl rfl rfl hbuf hkept ((phaseCoherent_idle rfl).2 hclean)
    · refine hi.of_running hp nofun nofun rfl rfl rfl rfl hbuf hkept ((phaseCoherent_setup rfl).2 ⟨hclean, ?_⟩)
      rcases hop with ⟨rfl, rfl⟩ | ⟨rfl, rfl⟩ | ⟨rfl, rfl⟩ <;> simp [opFits]
  next => cases h; exact inv_raiseFatal hi nofun

/-- The opcode of a write transfer always has a `WDATA` (R153). -/
theorem wdata_of_opFits {s : State} (h : opFits s) (hx : s.seq.xfer = .wr) : ∃ w, wdata s.seq = .next w := by
  rcases h.2 hx with hop | hop
  · exact ⟨_, wdata_next.2 (.inl ⟨hop, rfl⟩)⟩
  · exact ⟨_, wdata_next.2 (.inr ⟨hop, rfl⟩)⟩

theorem inv_setup {s t : State} (hi : Inv s) (hp : s.seq.pc = .setup) (h : seqStep s = .next t) : Inv t := by
  have ⟨hwf, ⟨hbuf, _⟩, _, hkept, hphase⟩ := hi
  have hsize := Params.wf_bufSize hwf
  have ⟨hclean, hop⟩ := (phaseCoherent_setup hp).1 hphase
  have hbuf0 := memWrite_wf _ _ _ 0 s.seq.reg hbuf (by omega)
  cases hx : s.seq.xfer with
  | rd =>
    rw [seqStep_setupRd s hp hx, setupRd_eq s (by omega)] at h
    cases h
    exact hi.of_running hp nofun nofun rfl rfl rfl rfl hbuf0
      (fun hne => by simpa [bufWritten] using hkept hne)
      ((phaseCoherent_trigger rfl).2 ⟨hclean, hop, by simp [descriptorReady, bufWritten, hx]⟩)
  | wr =>
    obtain ⟨w, hw⟩ := wdata_of_opFits hop hx
    rw [seqStep_setupWr s hp hx, setupWr_eq s w (by omega) hw] at h
    cases h
    exact hi.of_running hp nofun nofun rfl rfl rfl rfl (memWrite_wf _ _ _ 1 w hbuf0 (by omega))
      (fun hne => by simpa [bufWritten] using hkept hne)
      ((phaseCoherent_trigger rfl).2 ⟨hclean, hop, by simp [descriptorReady, bufWritten, hx]⟩)

theorem inv_trigger {s t : State} (hi : Inv s) (hp : s.seq.pc = .trigger) (h : seqStep s = .next t) : Inv t := by
  have ⟨_, ⟨hbuf, _⟩, _, hkept, hphase⟩ := hi
  have ⟨hclean, hop, hdesc⟩ := (phaseCoherent_trigger hp).1 hphase
  have ⟨hflags, hidle⟩ := hclean
  have ⟨_, hrx, hstopped⟩ := (flagsClear_iff s).1 hflags
  rw [seqStep_trigger s hp] at h
  rcases triggerStep_next h with ⟨hen, _, rfl⟩ | ⟨hen, rfl⟩
  · obtain ⟨n, e⟩ := zeroPollCnt_frame { s with cr.txdAmount := 0x00, cr.rxdAmount := 0x00, eng := .txAddr }
    rw [e]
    exact hi.of_running hp nofun nofun rfl rfl rfl rfl hbuf (fun hne => absurd rfl hne)
      ((phaseCoherent_poll rfl).2 ⟨hop, hdesc, fun _ => ⟨hrx, nofun, nofun⟩, by simp [pollCoherent, hstopped, hen]⟩)
  · obtain ⟨n, e⟩ := zeroPollCnt_frame s
    rw [e]
    exact hi.of_running hp nofun nofun rfl rfl rfl rfl hbuf hkept
      ((phaseCoherent_poll rfl).2 ⟨hop, hdesc, fun _ => by simp [hrx, hidle], fun _ => hidle, fun _ => .inr hen,
        fun _ => hclean⟩)

theorem inv_poll {s t : State} (hi : Inv s) (hp : s.seq.pc = .poll) (h : seqStep s = .next t) : Inv t := by
  have ⟨_, ⟨hbuf, _⟩, _, hkept, hphase⟩ := hi
  have hpoll := (phaseCoherent_poll hp).1 hphase
  rw [seqStep_poll s hp] at h
  rcases pollStep_cases s with ⟨hstopped, e⟩ | ⟨_, _, e⟩ | ⟨n, _, _, e⟩ <;> rw [e] at h <;> cases h
  · have ⟨hop, _, hno, hidle, _⟩ := hpoll
    exact hi.of_running hp nofun nofun rfl rfl rfl rfl hbuf hkept
      ((phaseCoherent_check rfl).2 ⟨hop, hstopped, hidle hstopped, hno⟩)
  · rwa [setPc_same s hp]
  · rcases pollLimited_cases n s with ⟨_, e⟩ | ⟨_, e⟩ <;> rw [e]
    · exact inv_raiseFatal hi nofun
    · exact hi.of_running hp nofun nofun rfl rfl rfl rfl hbuf hkept ((phaseCoherent_poll rfl).2 hpoll)

theorem inv_check {s t : State} (hi : Inv s) (hp : s.seq.pc = .check) (h : seqStep s = .next t) : Inv t := by
  have ⟨_, ⟨hbuf, _⟩, _, hkept, hphase⟩ := hi
  have ⟨hop, hstop⟩ := (phaseCoherent_check hp).1 hphase
  have hclear (hrx : s.seq.xfer = .rd → s.cr.rxdAmount = 0x01) : Inv (setPc .clear s) :=
    hi.of_running hp nofun nofun rfl rfl rfl rfl hbuf hkept ((phaseCoherent_clear rfl).2 ⟨hop, hstop, hrx⟩)
  cases hx : s.seq.xfer with
  | rd =>
    rw [seqStep_checkRd s hp hx] at h
    rcases checkRd_cases s with ⟨_, e⟩ | ⟨_, hrx, e⟩ <;> rw [e] at h <;> cases h
    · exact inv_raiseFatal hi nofun
    · exact hclear fun _ => hrx
  | wr =>
    rw [seqStep_checkWr s hp hx] at h
    rcases checkWr_cases s with ⟨_, e⟩ | ⟨_, e⟩ <;> rw [e] at h <;> cases h
    · exact inv_raiseFatal hi nofun
    · exact hclear fun hrd => by simp [hx] at hrd

theorem inv_clear {s t : State} (hi : Inv s) (hp : s.seq.pc = .clear) (h : seqStep s = .next t) : Inv t := by
  have ⟨_, ⟨hbuf, _⟩, _, hkept, hphase⟩ := hi
  have ⟨hop, ⟨_, hidle, hno⟩, hamount⟩ := (phaseCoherent_clear hp).1 hphase
  cases hx : s.seq.xfer with
  | rd =>
    rw [seqStep_clearRd s hp hx, clearRd_eq] at h
    cases h
    have hbyte : bufWritten s 2 = true := hkept (by simp [hamount hx])
    exact hi.of_running hp nofun nofun rfl rfl rfl rfl hbuf hkept
      ((phaseCoherent_complete rfl).2 ⟨hop, ⟨rfl, hidle⟩, fun _ => hbyte⟩)
  | wr =>
    rw [seqStep_clearWr s hp hx, clearWr_eq] at h
    cases h
    have hrx : s.cr.eventsRxDone = false := (hno hx).1
    exact hi.of_running hp nofun nofun rfl rfl rfl rfl hbuf hkept
      ((phaseCoherent_complete rfl).2 ⟨hop, ⟨by simp [flagsClear, hrx], hidle⟩, by simp [hx]⟩)

theorem inv_complete {s t : State} (hi : Inv s) (hp : s.seq.pc = .complete) (h : seqStep s = .next t) : Inv t := by
  have ⟨_, ⟨hbuf, _⟩, _, hkept, hphase⟩ := hi
  have ⟨_, hclean, _⟩ := (phaseCoherent_complete hp).1 hphase
  cases hx : s.seq.xfer with
  | rd =>
    rw [seqStep_completeRd s hp hx] at h
    obtain ⟨v, _, ⟨_, rfl⟩ | ⟨hop, rfl⟩⟩ := completeRd_next h
    · exact hi.of_running hp nofun nofun rfl rfl rfl rfl hbuf hkept ((phaseCoherent_idle rfl).2 hclean)
    · exact hi.of_running hp nofun nofun rfl rfl rfl rfl hbuf hkept
        ((phaseCoherent_setup rfl).2 ⟨hclean, nofun, fun _ => .inr hop⟩)
  | wr =>
    rw [seqStep_completeWr s hp hx] at h
    cases h
    exact hi.of_running hp nofun nofun rfl rfl rfl rfl hbuf hkept ((phaseCoherent_idle rfl).2 hclean)

/-- Every step of the sequencer keeps the invariant. -/
theorem inv_seqStep {s t : State} (hi : Inv s) (h : seqStep s = .next t) : Inv t := by
  cases hp : s.seq.pc with
  | idle =>
    cases hw : s.port with
    | none => rw [seqStep_idle_none s hp hw] at h; cases h; exact hi
    | some w =>
      rw [seqStep_idle s w hp hw] at h
      exact inv_acceptWord (s := takePort s) hi hp h
  | setup => exact inv_setup hi hp h
  | trigger => exact inv_trigger hi hp h
  | poll => exact inv_poll hi hp h
  | check => exact inv_check hi hp h
  | clear => exact inv_clear hi hp h
  | complete => exact inv_complete hi hp h
  | fatal => rw [seqStep_fatal s hp] at h; cases h; exact hi

/-! ### The engine's steps -/

/-- The engine writes BUF at byte 2 only, by the first byte of a read, and keeps it in canonical form (R37, R196). -/
theorem engFrame_buf {s t : State} (hf : EngFrame s t) (hdesc : descriptorReady s) (hno : noReadPhaseInWrite s)
    (hbuf : Memory.wf bufUnlisted s.par.bufSize s.buf = true) (hkept : receivedByteKept s) :
    Memory.wf bufUnlisted s.par.bufSize t.buf = true ∧ (∀ a, bufWritten s a = true → bufWritten t a = true) ∧
      receivedByteKept t := by
  obtain ⟨_, _, _, ⟨hb, hr⟩ | ⟨hg, hlt, hsize, v, hb, _⟩, _⟩ := hf
  · simp only [receivedByteKept, bufWritten, hb, hr]
    exact ⟨hbuf, fun _ h => h, hkept⟩
  · have hrd : s.seq.xfer = .rd := by
      cases hx : s.seq.xfer with
      | rd => rfl
      | wr => exact absurd hg (hno hx).2.2
    obtain ⟨_, _, _, hread, _⟩ := hdesc
    obtain ⟨_, _, hptr, hmax⟩ := hread hrd
    have hzero : s.cr.rxdAmount.toNat = 0 := by
      rw [hmax] at hlt
      exact Nat.lt_one_iff.1 hlt
    have hfirst : s.cr.rxdPtr.toNat + s.cr.rxdAmount.toNat = 2 := by rw [hptr, hzero]; rfl
    rw [hfirst] at hb hsize
    simp only [receivedByteKept, bufWritten, hb, isSome_memLookup_bufWrite]
    exact ⟨memWrite_wf _ _ _ _ _ hbuf hsize, fun a h => by simp [show _ = true from h], fun _ => rfl⟩

/-- The descriptor stays the transfer's while the engine works. -/
theorem engFrame_descriptorReady {s t : State} (hf : EngFrame s t) (hdesc : descriptorReady s)
    (hbuf : ∀ a, bufWritten s a = true → bufWritten t a = true) : descriptorReady t := by
  obtain ⟨⟨hseq, _⟩, ⟨hshorts, _, _, _, _, haddr, htptr, htmax, hrptr, hrmax⟩, _⟩ := hf
  obtain ⟨h1, h2, h3, hrd, hwr⟩ := hdesc
  simp only [descriptorReady, hseq, hshorts, haddr, htptr, htmax, hrptr, hrmax]
  refine ⟨h1, h2, hbuf 0 h3, hrd, fun hx => ?_⟩
  obtain ⟨h4, h5, h6⟩ := hwr hx
  exact ⟨h4, h5, hbuf 1 h6⟩

/-- A write never enters a read phase: its shortcuts have no link to one (R151, R155). -/
theorem engFrame_noReadPhase {s t : State} (hf : EngFrame s t) (hdesc : descriptorReady s)
    (hno : noReadPhaseInWrite s) : noReadPhaseInWrite t := by
  obtain ⟨⟨hseq, _⟩, _, _, _, _, _, _, hrxAddr, hrxData, hrxDone⟩ := hf
  obtain ⟨_, _, _, _, hwrite⟩ := hdesc
  intro hx
  rw [hseq] at hx
  obtain ⟨hdone, hnoAddr, hnoData⟩ := hno hx
  have hnoLink : txDoneStartRx s = false := by rw [txDoneStartRx, (hwrite hx).1]; rfl
  refine ⟨Bool.eq_false_iff.2 fun hne => ?_, fun hg => ?_, fun hg => (hrxData hg).elim hnoAddr hnoData⟩
  · exact (hrxDone hne).elim (by simp [hdone]) hnoData
  · simpa [hnoLink] using hrxAddr hg

/-- Every step of the engine keeps the invariant. -/
theorem inv_engStep {s t : State} (hi : Inv s) (h : engStep s = .next t) : Inv t := by
  rcases engStep_frame h with rfl | ⟨hen, hf⟩
  · exact hi
  have ⟨⟨hseq, _, _, _, hpar⟩, ⟨_, henable, _⟩, ⟨hrsvd, hstore⟩, _, hg, hidle, hstopped, _⟩ := hf
  obtain ⟨hpc, hdesc, hno⟩ := hi.engine_active hg
  obtain ⟨hwf, ⟨hmemBuf, hmemStore, hmemRsvd⟩, hfault, hkept, hphase⟩ := hi
  obtain ⟨hbufWf, hbufMono, hkept'⟩ := engFrame_buf hf hdesc hno hmemBuf hkept
  have hdesc' := engFrame_descriptorReady hf hdesc hbufMono
  have hno' := engFrame_noReadPhase hf hdesc hno
  refine ⟨hpar ▸ hwf, ⟨hpar ▸ hbufWf, hstore hmemStore, hrsvd ▸ hmemRsvd⟩, ?_, hkept', ?_⟩
  · simpa only [faultRecorded, hseq] using hfault
  · rcases hpc with hp | hp
    · obtain ⟨hop, _, _, hstoppedIdle, _⟩ := (phaseCoherent_poll hp).1 hphase
      refine (phaseCoherent_poll (hseq ▸ hp)).2 ⟨?_, hdesc', hno', ?_, fun hg' => .inl (hidle hg'), ?_⟩
      · simpa only [opFits, hseq] using hop
      · exact fun hst => (hstopped hst).elim (fun h => absurd (hstoppedIdle h) hg) id
      · simp [henable, hen]
    · exact (phaseCoherent_fatal (hseq ▸ hp)).2 fun _ => ⟨hdesc', hno'⟩

/-! ### HOST, the reset event and the machine -/

theorem inv_hostStep {s : State} (hi : Inv s) : Inv (hostStep s) := by
  obtain ⟨v, p, u, e⟩ := hostStep_eq s
  rw [e]
  exact hi

theorem inv_resetEvent {s : State} (hi : Inv s) : Inv (resetEvent s) := by
  obtain ⟨hwf, ⟨_, hstore, hrsvd⟩, _⟩ := hi
  obtain ⟨hstore', hrsvd'⟩ := deviceAfterReset_memories hstore
  exact ⟨hwf, ⟨wf_nil _ _, hstore', hrsvd' ▸ hrsvd⟩, by simp [faultRecorded, resetEvent, SeqState.reset],
    fun hne => absurd rfl hne, (phaseCoherent_idle rfl).2 ⟨rfl, rfl⟩⟩

theorem inv_agentStep {a : Agent} {s t : State} (hi : Inv s) (h : agentStep a s = .next t) : Inv t := by
  cases a with
  | host => cases h; exact inv_hostStep hi
  | seq => exact inv_seqStep hi h
  | eng => exact inv_engStep hi h

/-- Every step of the machine keeps the invariant, whoever moves, resets included. -/
theorem inv_step {s t : State} (hi : Inv s) (h : step s = .next t) : Inv t := by
  rcases machineStep_cases s with ⟨e, a, hstep, _⟩ | ⟨e, hstep, _⟩ | ⟨hstep, _⟩ <;> rw [step, hstep] at h
  · exact inv_agentStep (s := { s with env := e }) hi h
  · cases h; exact inv_resetEvent (s := { s with env := e }) hi
  · cases h; exact hi

/-- A launch state has the invariant, whatever its unspecified elements hold (R44). -/
theorem inv_of_launch {s : State} (h : Launch s) : Inv s := by
  obtain ⟨⟨hpc, _, hfault, hcause, _⟩, ⟨hflags, _, _, _, _, _, hrx⟩, hidle, _, _, hwf, hmem⟩ := h
  exact ⟨hwf, hmem, by simp [faultRecorded, hpc, hfault, hcause], fun hne => absurd hrx hne,
    (phaseCoherent_idle hpc).2 ⟨hflags, hidle⟩⟩

/-- The invariant holds in every reachable state. -/
theorem inv_of_reachable {s : State} (h : Reachable s) : Inv s := by
  induction h with
  | launch s h => exact inv_of_launch h
  | step s t _ h ih => exact inv_step ih h

end Sys2Proof.Machine
end

section
/-! PROOF. The statements about the fault record and clean idle, from the invariant. -/

namespace Sys2Proof.Machine

/-- At FATAL no agent's step writes the fault record: the sequencer has none, and the others never do (R25, R291). -/
theorem agentStep_faultRecord_of_fatal {a : Agent} {s t : State} (hp : s.seq.pc = .fatal)
    (h : agentStep a s = .next t) : t.seq.fault = s.seq.fault ∧ t.seq.cause = s.seq.cause := by
  cases a with
  | host =>
    cases h
    obtain ⟨v, p, u, e⟩ := hostStep_eq s
    rw [e]
    exact ⟨rfl, rfl⟩
  | seq => rw [agentStep, seqStep_fatal s hp] at h; cases h; exact ⟨rfl, rfl⟩
  | eng => rw [engStep_seq h]; exact ⟨rfl, rfl⟩

/-- At FATAL, without a reset, no step changes the fault record (R25, R291). -/
theorem faultRecord_kept_of_fatal {s t : State} (hp : s.seq.pc = .fatal) (hr : noReset s) (h : step s = .next t) :
    t.seq.fault = s.seq.fault ∧ t.seq.cause = s.seq.cause := by
  rcases step_noReset_cases hr with ⟨e, a, hstep, _⟩ | ⟨hstep, _⟩ <;> rw [hstep] at h
  · exact agentStep_faultRecord_of_fatal (s := { s with env := e }) hp h
  · cases h; exact ⟨rfl, rfl⟩

/-- Settles O40: the record is right because the invariant is kept, and a set FAULT means FATAL, where no step but a reset
writes it. -/
theorem faultRecordSticky : Obligations.FaultRecordSticky := by
  unfold Obligations.FaultRecordSticky
  intro s t hi h
  have ⟨_, _, ⟨hfatal', _⟩, _⟩ := inv_step hi h
  have ⟨_, _, ⟨hfatal, _⟩, _⟩ := hi
  refine ⟨hfatal', fun hf hr => ?_, rfl, rfl⟩
  obtain ⟨hfault, hcause⟩ := faultRecord_kept_of_fatal (hfatal.1 hf) hr h
  exact ⟨hfault.trans hf, hcause⟩

/-- Settles O49: clean idle is the invariant's clause at IDLE, and reachable states have the invariant. -/
theorem cleanIdleWhenReachable : Obligations.CleanIdleWhenReachable := by
  unfold Obligations.CleanIdleWhenReachable
  intro s hreach hp
  obtain ⟨_, _, _, _, hphase⟩ := inv_of_reachable hreach
  obtain ⟨hflags, hidle⟩ := (phaseCoherent_idle hp).1 hphase
  obtain ⟨htx, hrx, hstopped⟩ := (flagsClear_iff s).1 hflags
  exact ⟨htx, hrx, hstopped, hidle⟩

end Sys2Proof.Machine
end

section
/-! PROOF. The simulated device's answers where no answer is placed on the question (R80), and the bytes its store reads
after a byte is stored. -/

namespace Sys2Proof.Machine

section
variable {s : State} (hk : s.dev.kind = .simdev)
  (hq : injected s.dev.inject (s.dev.asked + 1) s.cr.address = none)
include hk hq

/-- The device that is asked, its question counted: simulated still, and no answer of either kind placed on the question. -/
theorem countQuestion_simdev_unplaced :
    injectedAck (countQuestion s.dev) (countQuestion s.dev).asked s.cr.address = none ∧
      injectedRead (countQuestion s.dev) (countQuestion s.dev).asked s.cr.address = none ∧
      (countQuestion s.dev).kind = .simdev :=
  ⟨(injected_none_answers hq).1, (injected_none_answers hq).2, hk⟩

theorem devAddrAck_simdev (rw : BitVec 1) :
    devAddrAck rw s = (simAddrAck s.cr.address s.dev, { s with dev := countQuestion s.dev }) := by
  obtain ⟨hack, _, hkind⟩ := countQuestion_simdev_unplaced hk hq
  simp only [devAddrAck, hack, hkind]
  rfl

theorem devWriteByte_zero_simdev (b : Byte) :
    devWriteByte 0 b s = .next (.ack, { s with dev := simSetPtr b (countQuestion s.dev) }) := by
  obtain ⟨hack, _, hkind⟩ := countQuestion_simdev_unplaced hk hq
  simp [devWriteByte, hack, hkind]

theorem devWriteByte_one_simdev (b : Byte) :
    devWriteByte 1 b s = .next (.ack, { s with dev := simStoreByte b (countQuestion s.dev) }) := by
  obtain ⟨hack, _, hkind⟩ := countQuestion_simdev_unplaced hk hq
  simp [devWriteByte, hack, hkind]

theorem devReadByte_zero_simdev :
    devReadByte 0 s = .next (.byte (storeByte s.dev s.dev.simPtr), { s with dev := countQuestion s.dev }) := by
  obtain ⟨_, hread, hkind⟩ := countQuestion_simdev_unplaced hk hq
  simp only [devReadByte, hread, hkind]
  rfl

end

/-- The stored byte read at the pointer: the old reserved bits, the new other ones (R80). -/
theorem storeByte_simStoreByte_same (b : Byte) (d : Device)
    (h : Memory.wf storeUnlisted 256 d.simStore = true) :
    storeByte (simStoreByte b d) d.simPtr =
      (storeByte d d.simPtr &&& rsvdByte d d.simPtr) ||| (b &&& ~~~(rsvdByte d d.simPtr)) :=
  storeByte_storeWrite_same d _ _ (wf_sorted h)

theorem storeByte_simStoreByte_other (b : Byte) (d : Device) {r : Byte} (h : r ≠ d.simPtr) :
    storeByte (simStoreByte b d) r = storeByte d r :=
  storeByte_storeWrite_other d _ _ _ h

/-- Settles O36: the device's four answers, and what its store reads at the pointer and elsewhere after the second payload
byte; counting the question changes neither the store, its reserved bits nor the pointer. -/
theorem simdevAnswers : Obligations.SimdevAnswers := by
  unfold Obligations.SimdevAnswers
  intro s hk hq
  refine ⟨devAddrAck_simdev hk hq, devWriteByte_zero_simdev hk hq, devReadByte_zero_simdev hk hq, fun b hwf => ?_⟩
  obtain ⟨_, hstore, _⟩ := hwf
  exact ⟨_, devWriteByte_one_simdev hk hq b, storeByte_simStoreByte_same b (countQuestion s.dev) hstore,
    fun r hr => storeByte_simStoreByte_other b (countQuestion s.dev) hr, rfl⟩

end Sys2Proof.Machine
end

section
/-! PROOF. The decoder row by row: what a row of the opcode table (R102) asks of a word's fields, and what the decoder
answers for a word that bears the row's opcode. -/

namespace Sys2Proof

/-! ### A row's mask and match, as conditions on a word's fields -/

theorem cmd40_and_cmd40 (op a b c d mop ma mb mc md : Byte) :
    cmd40 op a b c d &&& cmd40 mop ma mb mc md = cmd40 (op &&& mop) (a &&& ma) (b &&& mb) (c &&& mc) (d &&& md) := by
  simp only [cmd40, ← BitVec.and_append]

/-- A word under a mask whose match has only an opcode, byte by byte. -/
theorem and_cmd40_eq_iff (w : CmdWord) (op mop ma mb mc md : Byte) :
    w &&& cmd40 mop ma mb mc md = cmd40 op 0 0 0 0 ↔
      opField w &&& mop = op ∧ aField w &&& ma = 0 ∧ bField w &&& mb = 0 ∧ cField w &&& mc = 0 ∧
        dField w &&& md = 0 := by
  have hand := cmd40_and_cmd40 (opField w) (aField w) (bField w) (cField w) (dField w) mop ma mb mc md
  rw [cmd40_fields w] at hand
  rw [hand]
  constructor
  · intro h
    exact ⟨by simpa using congrArg opField h, by simpa using congrArg aField h, by simpa using congrArg bField h,
      by simpa using congrArg cField h, by simpa using congrArg dField h⟩
  · rintro ⟨hop, ha, hb, hc, hd⟩
    rw [hop, ha, hb, hc, hd]

theorem byte_and_ones (x : Byte) : x &&& 0xFF#8 = x := BitVec.and_allOnes

theorem byte_and_bit7_eq_zero (x : Byte) : x &&& 0x80#8 = 0#8 ↔ x.getLsbD 7 = false := by
  revert x; decide

theorem byte_and_upper7_eq_zero (x : Byte) : x &&& 0xFE#8 = 0#8 ↔ x.extractLsb' 1 7 = 0#7 := by
  revert x; decide

/-- Are the bits that a command's row marks "must be 0" all 0 in a word (R101)? -/
def Instr.reservedZero (w : CmdWord) : Instr → Bool
  | .enable _ _ _ => decide ((cField w).extractLsb' 1 7 = 0) && decide (dField w = 0)
  | .disable => decide (aField w = 0) && decide (bField w = 0) && decide (cField w = 0) && decide (dField w = 0)
  | .regRead _ _ => !(aField w).getLsbD 7 && decide (cField w = 0) && decide (dField w = 0)
  | .regWrite _ _ _ => !(aField w).getLsbD 7 && decide (dField w = 0)
  | .regWriteMask _ _ _ _ => !(aField w).getLsbD 7

/-- A row of R102 selects the words that bear its opcode and have its reserved fields 0. -/
theorem and_tableMask_eq_tableMatch_iff (w : CmdWord) (i : Instr) :
    w &&& i.tableMask = i.tableMatch ↔ opField w = i.opcode ∧ i.reservedZero w = true := by
  cases i with
  | enable clockPin dataPin fast =>
    refine (and_cmd40_eq_iff w 0x01 0xFF 0x00 0x00 0xFE 0xFF).trans ?_
    simp [byte_and_ones, byte_and_upper7_eq_zero, Instr.opcode, Instr.reservedZero]
  | disable =>
    refine (and_cmd40_eq_iff w 0x02 0xFF 0xFF 0xFF 0xFF 0xFF).trans ?_
    simp [byte_and_ones, Instr.opcode, Instr.reservedZero, and_assoc]
  | regRead dev reg =>
    refine (and_cmd40_eq_iff w 0x03 0xFF 0x80 0x00 0xFF 0xFF).trans ?_
    simp [byte_and_ones, byte_and_bit7_eq_zero, Instr.opcode, Instr.reservedZero, and_assoc]
  | regWrite dev reg data =>
    refine (and_cmd40_eq_iff w 0x04 0xFF 0x80 0x00 0x00 0xFF).trans ?_
    simp [byte_and_ones, byte_and_bit7_eq_zero, Instr.opcode, Instr.reservedZero]
  | regWriteMask dev reg mask data =>
    refine (and_cmd40_eq_iff w 0x05 0xFF 0x80 0x00 0x00 0x00).trans ?_
    simp [byte_and_ones, byte_and_bit7_eq_zero, Instr.opcode, Instr.reservedZero]

/-! ### The decoder's answer for a word of a row -/

/-- The command of a row with its operands cut from a word as R101 says; an ENABLE's pins must be below PIN_COUNT. -/
def Instr.cutFrom (pinCount : Nat) (w : CmdWord) : Instr → Except IllegalWord Instr
  | .enable _ _ _ =>
    if (aField w).toNat < pinCount ∧ (bField w).toNat < pinCount then
      .ok (.enable (aField w) (bField w) (fastOperand w))
    else .error .pinNotBelowPinCount
  | .disable => .ok .disable
  | .regRead _ _ => .ok (.regRead (devOperand w) (bField w))
  | .regWrite _ _ _ => .ok (.regWrite (devOperand w) (bField w) (cField w))
  | .regWriteMask _ _ _ _ => .ok (.regWriteMask (devOperand w) (bField w) (cField w) (dField w))

theorem Instr.opcode_of_cutFrom {pinCount : Nat} {w : CmdWord} {i j : Instr} (h : i.cutFrom pinCount w = .ok j) :
    j.opcode = i.opcode := by
  cases i with
  | enable clockPin dataPin fast =>
    rw [Instr.cutFrom] at h
    split at h <;> cases h
    rfl
  | disable | regRead _ _ | regWrite _ _ _ | regWriteMask _ _ _ _ => cases h; rfl

/-- No 8-bit pin reaches PIN_COUNT 256, so the operands of every row can be cut then. -/
theorem Instr.cutFrom_pinCount_256 (w : CmdWord) (i : Instr) : ∃ j, i.cutFrom 256 w = .ok j := by
  cases i with
  | enable clockPin dataPin fast => exact ⟨_, if_pos ⟨(aField w).isLt, (bField w).isLt⟩⟩
  | disable | regRead _ _ | regWrite _ _ _ | regWriteMask _ _ _ _ => exact ⟨_, rfl⟩

/-- A word that bears a row's opcode decodes to the row's command, if its reserved fields are 0. -/
theorem decode_of_opField {w : CmdWord} {i : Instr} (pinCount : Nat) (h : opField w = i.opcode) :
    decode pinCount w = ifReservedZero (i.reservedZero w) (i.cutFrom pinCount w) := by
  cases i <;> rw [decode, h] <;> rfl

/-- A word that bears no row's opcode has a reserved opcode. -/
theorem decode_of_opField_ne {w : CmdWord} (pinCount : Nat) (h : ∀ i : Instr, opField w ≠ i.opcode) :
    decode pinCount w = .error .reservedOpcode := by
  have h1 : opField w ≠ 0x01 := h (.enable 0 0 false)
  have h2 : opField w ≠ 0x02 := h .disable
  have h3 : opField w ≠ 0x03 := h (.regRead 0 0)
  have h4 : opField w ≠ 0x04 := h (.regWrite 0 0 0)
  have h5 : opField w ≠ 0x05 := h (.regWriteMask 0 0 0 0)
  rw [decode, if_neg h1, if_neg h2, if_neg h3, if_neg h4, if_neg h5]

/-- A word that a row selects is a command of the row but for an ENABLE's pins. -/
theorem decode_of_selected {w : CmdWord} {i : Instr} (pinCount : Nat) (h : w &&& i.tableMask = i.tableMatch) :
    decode pinCount w = i.cutFrom pinCount w := by
  obtain ⟨hop, hzero⟩ := (and_tableMask_eq_tableMatch_iff w i).1 h
  rw [decode_of_opField pinCount hop, hzero]
  rfl

theorem decode_of_not_selected {w : CmdWord} {i : Instr} (pinCount : Nat) (hop : opField w = i.opcode)
    (h : w &&& i.tableMask ≠ i.tableMatch) : decode pinCount w = .error .reservedFieldNotZero := by
  have hzero : i.reservedZero w ≠ true := fun hz => h ((and_tableMask_eq_tableMatch_iff w i).2 ⟨hop, hz⟩)
  rw [decode_of_opField pinCount hop]
  exact if_neg hzero

/-- A decoded command has the opcode that its word bears. -/
theorem opField_of_decode {pinCount : Nat} {w : CmdWord} {j : Instr} (h : decode pinCount w = .ok j) :
    opField w = j.opcode := by
  by_cases hrow : ∃ i : Instr, opField w = i.opcode
  · obtain ⟨i, hop⟩ := hrow
    by_cases hsel : w &&& i.tableMask = i.tableMatch
    · rw [decode_of_selected pinCount hsel] at h
      rw [hop, Instr.opcode_of_cutFrom h]
    · rw [decode_of_not_selected pinCount hop hsel] at h
      cases h
  · rw [decode_of_opField_ne pinCount (not_exists.1 hrow)] at h
    cases h

/-- The five opcodes are 0x01 to 0x05 (R102). -/
theorem Instr.opcode_range (i : Instr) : 0x01 ≤ i.opcode.toNat ∧ i.opcode.toNat < 0x06 := by
  cases i <;> simp [Instr.opcode]

/-- Opcode 0x00 and the opcodes from 0x06 on are no row's (R104). -/
theorem opField_ne_opcode {w : CmdWord} (h : opField w = 0x00 ∨ 0x06 ≤ (opField w).toNat) (i : Instr) :
    opField w ≠ i.opcode := by
  intro hop
  obtain ⟨hlow, hhigh⟩ := i.opcode_range
  rw [← hop] at hlow hhigh
  rcases h with hzero | hreserved
  · simp [hzero] at hlow
  · omega

/-! ### The statements -/

/-- An illegal word taken at ACCEPT raises Fatal(ILLEGAL_COMMAND), whatever makes it illegal (R104, R285). -/
theorem Machine.acceptWord_of_illegal {w : CmdWord} {s : Machine.State} {e : IllegalWord}
    (h : decode s.par.pinCount w = .error e) :
    Machine.acceptWord w s = .next (Machine.raiseFatal .illegalCommand s) := by
  rw [Machine.acceptWord, h]

/-- Settles O3: a decoded command has its word's opcode, and a word with a row's opcode that the row does not select is
illegal; at PIN_COUNT 256 every word that the row selects has its operands. -/
theorem decodeSelectsTableRow : Obligations.DecodeSelectsTableRow := by
  unfold Obligations.DecodeSelectsTableRow
  intro w i
  constructor
  · rintro ⟨j, hj, hopcode⟩
    have hop : opField w = i.opcode := (opField_of_decode hj).trans hopcode
    by_contra hsel
    rw [decode_of_not_selected 256 hop hsel] at hj
    cases hj
  · intro hsel
    obtain ⟨j, hj⟩ := i.cutFrom_pinCount_256 w
    exact ⟨j, (decode_of_selected 256 hsel).trans hj, Instr.opcode_of_cutFrom hj⟩

/-- Settles O4: the three kinds of illegal word by the row whose opcode the word bears, if any, and ACCEPT of each. -/
theorem illegalWordsRejected : Obligations.IllegalWordsRejected := by
  unfold Obligations.IllegalWordsRejected
  intro pinCount w
  refine ⟨fun hop => ?_, fun i hop hsel => ?_, fun hsel hpins => ?_, fun s e he => ?_⟩
  · exact decode_of_opField_ne pinCount (opField_ne_opcode hop)
  · exact decode_of_not_selected pinCount hop hsel
  · rw [decode_of_selected (i := .enable 0 0 false) pinCount hsel]
    exact if_neg hpins
  · exact Machine.acceptWord_of_illegal he

end Sys2Proof
end

section
/-! PROOF. The statements about ACCEPT and the control commands: each command's answer in the statement's own form, and when
HOST presents a word. -/

namespace Sys2Proof.Machine

/-! ### ACCEPT of a legal word -/

/-- A legal word taken at ACCEPT is its command (R130). -/
theorem acceptWord_of_legal {w : CmdWord} {s : State} {i : Instr} (h : decode s.par.pinCount w = .ok i) :
    acceptWord w s = exec i s := by
  rw [acceptWord, h]

/-- Away from IDLE a step of the sequencer leaves the command port as it is: only ACCEPT takes the word (R130). -/
theorem seqStep_port_of_ne_idle {s t : State} (hp : s.seq.pc ≠ .idle) (h : seqStep s = .next t) : t.port = s.port := by
  obtain ⟨_, hport | ⟨hidle, _⟩, _⟩ := seqStep_frame h
  · exact hport
  · exact absurd hidle hp

/-! ### When HOST presents a word -/

/-- HOST may present a word exactly where the block is free, no response is due and the port is empty (R130). -/
theorem mayPresent_iff (s : State) :
    mayPresent s = true ↔ busy s = false ∧ fatalOut s = false ∧ s.host.awaiting = false ∧ s.port = none := by
  simp [mayPresent, and_assoc]

/-- HOST's next act writes the port only where it presents a word, and HOST then awaits the response (R130). -/
theorem hostAct_port_cases (s : State) :
    (hostAct s).port = s.port ∨
      (∃ w rest, s.host.todo = .present w :: rest) ∧ (hostAct s).host.awaiting = true := by
  unfold hostAct
  split
  next => exact .inl rfl
  next w rest htodo => exact .inr ⟨⟨w, rest, htodo⟩, rfl⟩
  next => split <;> exact .inl rfl
  next => exact .inl rfl
  next => exact .inl rfl

/-- HOST's step writes the port only where HOST may present a word, and HOST then awaits the response (R130). -/
theorem hostStep_port_cases (s : State) :
    (hostStep s).port = s.port ∨ mayPresent s = true ∧ (hostStep s).host.awaiting = true := by
  unfold hostStep
  split
  next henabled =>
    split
    next => exact .inl rfl
    next hresp =>
      rcases hostAct_port_cases s with hport | ⟨⟨w, rest, htodo⟩, hawait⟩
      · exact .inl hport
      · simp only [hostEnabled, htodo, hresp, Bool.false_or, Bool.and_eq_true] at henabled
        obtain ⟨_, hmay⟩ := henabled
        exact .inr ⟨hmay, hawait⟩
  next => exact .inl rfl

/-! ### The statements -/

/-- Settles O7: an illegal word raises, a legal one is its command, whose answer at IDLE its own lemma gives; away from IDLE
no command is taken, and HOST presents only where it may. -/
theorem acceptStepByCommand : Obligations.AcceptStepByCommand := by
  unfold Obligations.AcceptStepByCommand
  intro s w
  refine ⟨fun _ e hd => ?_, fun hp a b fast hab hd => ?_, fun hp hd => ?_, fun hp dev reg hd => ?_,
    fun hp dev reg data hd => ?_, fun hp dev reg mask data hd => ?_, fun hp => ?_, fun hport => ?_⟩
  · exact acceptWord_of_illegal hd
  · exact (acceptWord_of_legal hd).trans (exec_enable_idle a b fast s hp hab)
  · exact (acceptWord_of_legal hd).trans (exec_disable_idle s hp)
  · exact (acceptWord_of_legal hd).trans (exec_regRead_idle dev reg s hp)
  · exact (acceptWord_of_legal hd).trans (exec_regWrite_idle dev reg data s hp)
  · exact (acceptWord_of_legal hd).trans (exec_regWriteMask_idle dev reg mask data s hp)
  · exact ⟨fun i => exec_other i s hp, fun t => seqStep_port_of_ne_idle hp⟩
  · obtain ⟨hmay, hawait⟩ := (hostStep_port_cases s).resolve_left hport
    obtain ⟨hbusy, hfatal, _⟩ := (mayPresent_iff s).1 hmay
    exact ⟨hbusy, hfatal, hawait⟩

/-- Settles O8: ENABLE's answer at IDLE by whether the pins differ; nothing in it asks what was enabled before. -/
theorem enableBindsPinsAndActivates : Obligations.EnableBindsPinsAndActivates := by
  unfold Obligations.EnableBindsPinsAndActivates
  intro a b fast s hp
  constructor
  · exact exec_enable_idle a b fast s hp
  · rintro rfl
    exact exec_enable_equal a fast s hp

/-- Settles O9: DISABLE's answer at IDLE, with the end of the command written out. -/
theorem disableOnlyDeactivates : Obligations.DisableOnlyDeactivates := by
  unfold Obligations.DisableOnlyDeactivates
  exact exec_disable_idle

end Sys2Proof.Machine
end

section
/-! PROOF. The statements about a transfer's phases: the merge function bit by bit (R153), and each phase's answer in
the statement's own form (R154 to R160). -/

namespace Sys2Proof.Machine

/-! ### The merge function -/

/-- The merge function takes each bit from the data where the mask is set, and from the old byte elsewhere (R153). -/
theorem merge_getElem (old mask data : Byte) (i : Nat) (hi : i < 8) :
    (merge old mask data)[i] = if mask[i] then data[i] else old[i] := by
  cases hm : mask[i] <;> simp [merge, hm]

/-- The masked bits of a merge are the data's. -/
theorem merge_and_mask (old mask data : Byte) : merge old mask data &&& mask = data &&& mask := by
  ext i hi
  cases hm : mask[i] <;> simp [merge_getElem, hm]

/-- The other bits of a merge are the old byte's. -/
theorem merge_and_not_mask (old mask data : Byte) : merge old mask data &&& ~~~mask = old &&& ~~~mask := by
  ext i hi
  cases hm : mask[i] <;> simp [merge_getElem, hm]

/-- Of two merges under one mask the last wins. -/
theorem merge_merge (old mask data data' : Byte) :
    merge (merge old mask data) mask data' = merge old mask data' := by
  rw [merge, merge_and_not_mask, ← merge]

/-- Merging the same data twice is merging it once. -/
theorem merge_idempotent (old mask data : Byte) :
    merge (merge old mask data) mask data = merge old mask data :=
  merge_merge old mask data data

/-- Settles O18: the laws follow from which byte each bit of a merge comes from; WDATA by the opcode. -/
theorem mergeLaws : Obligations.MergeLaws := by
  unfold Obligations.MergeLaws
  intro old mask data data'
  refine ⟨rfl, merge_and_mask old mask data, merge_and_not_mask old mask data, merge_idempotent old mask data,
    merge_merge old mask data data', fun q => ⟨fun hop => ?_, fun hop => ?_⟩⟩
  · exact wdata_next.2 (.inl ⟨hop, rfl⟩)
  · exact wdata_next.2 (.inr ⟨hop, rfl⟩)

/-! ### A byte of BUF after a write -/

/-- BUF reads the byte written, whatever was listed before: it has no value that is not listed (R77). -/
theorem memRead_bufWrite_same (m : Memory) (a : Nat) (v : Byte) :
    memRead bufUnlisted (memWrite bufUnlisted m a v) a = some v := by
  have hlisted : memWrite bufUnlisted m a v = memInsert m a v := if_neg nofun
  rw [hlisted, memRead, memLookup_memInsert_same]

/-! ### What each phase answers -/

theorem zeroPollCnt_eq (s : State) :
    zeroPollCnt s = { s with seq.pollCnt := if s.par.pollLimit = none then s.seq.pollCnt else 0 } := by
  rcases zeroPollCnt_cases s with ⟨hlimit, e⟩ | ⟨hlimit, e⟩
  · rw [e, if_pos hlimit]
  · rw [e, if_neg hlimit]

theorem triggerStep_idle {s : State} (hen : s.cr.enable = true) (hg : s.eng = .idle) :
    triggerStep s = .next (setPc .poll (zeroPollCnt
      { s with cr.txdAmount := 0x00, cr.rxdAmount := 0x00, eng := .txAddr })) := by
  simp [triggerStep, engTrigger, hen, hg]

theorem triggerStep_inactive {s : State} (hen : s.cr.enable = false) :
    triggerStep s = .next (setPc .poll (zeroPollCnt s)) := by
  simp [triggerStep, engTrigger, hen]

theorem triggerStep_busy {s : State} (hen : s.cr.enable = true) (hg : s.eng ≠ .idle) :
    triggerStep s = .refused .triggerDuringTransaction := by
  simp [triggerStep, engTrigger, hen, hg]

theorem completeRd_respond {s : State} {v : Byte} (hv : bufRead 2 s = .next v) (hop : s.seq.op = 0x03) :
    completeRd s = .next (endCommand v { s with seq.tmp := v }) := by
  rw [completeRd, hv, chain_next, if_pos hop]

theorem completeRd_beginWrite {s : State} {v : Byte} (hv : bufRead 2 s = .next v) (hop : s.seq.op = 0x05) :
    completeRd s = .next { s with seq.tmp := v, seq.xfer := .wr, seq.pc := .setup } := by
  have hread : s.seq.op ≠ 0x03 := by rw [hop]; decide
  rw [completeRd, hv, chain_next, if_neg hread, if_pos hop]

/-! ### The statements -/

/-- Settles O16: SETUP(RD)'s answer; of BUF it writes byte 0 only. -/
theorem setupReadStep : Obligations.SetupReadStep := by
  unfold Obligations.SetupReadStep
  intro s hp hx hsize
  refine ⟨_, (seqStep_setupRd s hp hx).trans (setupRd_eq s (by omega)), rfl, ?_, fun a ha => ?_⟩
  · exact memRead_bufWrite_same s.buf 0 s.seq.reg
  · exact memRead_memWrite_other _ _ 0 a _ ha

/-- Settles O17: SETUP(WR)'s answer; of BUF it writes byte 0 and then byte 1, which holds WDATA. -/
theorem setupWriteStep : Obligations.SetupWriteStep := by
  unfold Obligations.SetupWriteStep
  intro s w hp hx hsize hop
  have hw : wdata s.seq = .next w := wdata_next.2 hop
  refine ⟨_, (seqStep_setupWr s hp hx).trans (setupWr_eq s w (by omega) hw), rfl, ?_, ?_, fun a ha0 ha1 => ?_⟩
  · exact (memRead_memWrite_other _ _ 1 0 w (by decide)).trans (memRead_bufWrite_same s.buf 0 s.seq.reg)
  · exact memRead_bufWrite_same _ 1 w
  · exact (memRead_memWrite_other _ _ 1 a w ha1).trans (memRead_memWrite_other _ _ 0 a _ ha0)

/-- Settles O23: CLEAR's answer for each transfer. -/
theorem clearStep : Obligations.ClearStep := by
  unfold Obligations.ClearStep
  intro s hp
  constructor
  · intro hx
    exact (seqStep_clearRd s hp hx).trans (clearRd_eq s)
  · intro hx
    exact (seqStep_clearWr s hp hx).trans (clearWr_eq s)

/-- Settles O24: COMPLETE's answer for each transfer, of a read by the opcode. -/
theorem completeStep : Obligations.CompleteStep := by
  unfold Obligations.CompleteStep
  intro s hp
  refine ⟨fun v hx hsize hbyte => ?_, seqStep_completeWr s hp⟩
  have hv : bufRead 2 s = .next v := bufRead_next.2 ⟨by omega, hbyte⟩
  rw [seqStep_completeRd s hp hx]
  exact ⟨completeRd_respond hv, completeRd_beginWrite hv⟩

end Sys2Proof.Machine

namespace Sys2Proof

open Machine in
/-- Settles O19: TRIGGER's answer by whether the peripheral is active and its engine at rest. -/
theorem triggerStep : Obligations.TriggerStep := by
  unfold Obligations.TriggerStep
  intro s hp
  rw [seqStep_trigger s hp]
  refine ⟨fun hen hg => ?_, fun hen => ?_, triggerStep_busy⟩
  · rw [triggerStep_idle hen hg, zeroPollCnt_eq]
    rfl
  · rw [triggerStep_inactive hen, zeroPollCnt_eq]
    rfl

end Sys2Proof
end

section
/-! PROOF. The phase graph (R163): for each phase, where a step of the sequencer that answers a next state leads. -/

namespace Sys2Proof.Machine

/-! ### POLL and CHECK by their conditions -/

theorem pollStep_stopped {s : State} (h : s.cr.eventsStopped = true) : pollStep s = .next (setPc .check s) := by
  rw [pollStep, readStopped_isOne, if_pos h]

theorem pollStep_unlimited {s : State} (h : s.cr.eventsStopped = false) (hlimit : s.par.pollLimit = none) :
    pollStep s = .next (setPc .poll s) := by
  simp [pollStep, h, hlimit]

theorem pollStep_limited {s : State} {n : Nat} (h : s.cr.eventsStopped = false) (hlimit : s.par.pollLimit = some n) :
    pollStep s = .next (pollLimited n s) := by
  simp [pollStep, h, hlimit]

/-- A poll under a limit halts exactly where its count reaches the limit (R234). -/
theorem pollLimited_pc (n : Nat) (s : State) :
    (pollLimited n s).seq.pc = if n ≤ s.seq.pollCnt + 1 then .fatal else .poll := by
  unfold pollLimited
  split <;> rfl

/-- No POLL writes a register or a byte of BUF (R231, R234). -/
theorem pollStep_cr_buf {s t : State} (h : pollStep s = .next t) : t.cr = s.cr ∧ t.buf = s.buf := by
  rcases pollStep_cases s with ⟨_, e⟩ | ⟨_, _, e⟩ | ⟨n, _, _, e⟩ <;> rw [e] at h <;> cases h
  · exact ⟨rfl, rfl⟩
  · exact ⟨rfl, rfl⟩
  · rcases pollLimited_cases n s with ⟨_, e⟩ | ⟨_, e⟩ <;> rw [e] <;> exact ⟨rfl, rfl⟩

/-- CHECK(RD) passes exactly where both counts are 1 (R232). -/
theorem checkRd_pc {s t : State} (h : checkRd s = .next t) :
    t.seq.pc = if s.cr.txdAmount = 1 ∧ s.cr.rxdAmount = 1 then .clear else .fatal := by
  rcases checkRd_cases s with ⟨hne, e⟩ | ⟨htx, hrx, e⟩ <;> rw [e] at h <;> cases h
  · exact (if_neg (not_and_or.2 hne)).symm
  · exact (if_pos ⟨htx, hrx⟩).symm

/-- CHECK(WR) passes exactly where the transmit count is 2 (R233). -/
theorem checkWr_pc {s t : State} (h : checkWr s = .next t) :
    t.seq.pc = if s.cr.txdAmount = 2 then .clear else .fatal := by
  rcases checkWr_cases s with ⟨hne, e⟩ | ⟨htx, e⟩ <;> rw [e] at h <;> cases h
  · exact (if_neg hne).symm
  · exact (if_pos htx).symm

/-! ### Which SETUP answers a next state -/

/-- SETUP(RD) does only where BUF has a place for the register address (R207). -/
theorem bufSize_of_setupRd {s t : State} (h : setupRd s = .next t) : 0 < s.par.bufSize := by
  by_contra hsize
  simp [setupRd, bufWrite, hsize] at h

/-- SETUP(WR) does only where BUF has places for both payload bytes (R207) and the opcode has a WDATA (R153). -/
theorem bufSize_wdata_of_setupWr {s t : State} (h : setupWr s = .next t) :
    1 < s.par.bufSize ∧ ∃ w, wdata s.seq = .next w := by
  obtain ⟨w, hw, h⟩ := chain_eq_next.1 h
  refine ⟨?_, w, hw⟩
  by_contra hsize
  by_cases h0 : 0 < s.par.bufSize <;> simp [bufWrite, hsize, h0] at h

/-! ### The edges out of each phase -/

/-- The phase after an answer is the phase of the state answered. -/
theorem pc_of_answer {o : Res State} {s t : State} (hs : o = .next s) (ht : o = .next t) : t.seq.pc = s.seq.pc := by
  cases hs.symm.trans ht
  rfl

/-- A command taken at IDLE and not refused: a control command ends there, a transfer goes on to SETUP (R130). -/
theorem exec_pc_of_idle {i : Instr} {s t : State} (hp : s.seq.pc = .idle) (h : exec i s = .next t) :
    t.seq.pc = if i = .disable ∨ i.opcode = 0x01 then .idle else .setup := by
  cases i with
  | enable a b fast =>
    by_cases hab : a = b
    · subst hab
      cases (exec_enable_equal a fast s hp).symm.trans h
    · exact pc_of_answer (exec_enable_idle a b fast s hp hab) h
  | disable => exact pc_of_answer (exec_disable_idle s hp) h
  | regRead dev reg => exact pc_of_answer (exec_regRead_idle dev reg s hp) h
  | regWrite dev reg data => exact pc_of_answer (exec_regWrite_idle dev reg data s hp) h
  | regWriteMask dev reg mask data => exact pc_of_answer (exec_regWriteMask_idle dev reg mask data s hp) h

section
variable {s t : State} (h : seqStep s = .next t)
include h

theorem pc_after_accept {w : CmdWord} (hp : s.seq.pc = .idle) (hw : s.port = some w) :
    (∀ e, decode s.par.pinCount w = .error e → t.seq.pc = .fatal) ∧
      (∀ i, decode s.par.pinCount w = .ok i →
        t.seq.pc = if i = .disable ∨ i.opcode = 0x01 then .idle else .setup) := by
  rw [seqStep_idle s w hp hw] at h
  constructor
  · intro e he
    exact pc_of_answer (acceptWord_of_illegal (s := takePort s) he) h
  · intro i hi
    rw [acceptWord_of_legal (s := takePort s) hi] at h
    exact exec_pc_of_idle (s := takePort s) hp h

theorem pc_after_setup (hp : s.seq.pc = .setup) : t.seq.pc = .trigger := by
  cases hx : s.seq.xfer with
  | rd =>
    rw [seqStep_setupRd s hp hx] at h
    exact pc_of_answer (setupRd_eq s (bufSize_of_setupRd h)) h
  | wr =>
    rw [seqStep_setupWr s hp hx] at h
    obtain ⟨hsize, w, hw⟩ := bufSize_wdata_of_setupWr h
    exact pc_of_answer (setupWr_eq s w hsize hw) h

theorem pc_after_trigger (hp : s.seq.pc = .trigger) : t.seq.pc = .poll := by
  rw [seqStep_trigger s hp] at h
  rcases triggerStep_next h with ⟨_, _, rfl⟩ | ⟨_, rfl⟩ <;> rfl

theorem pc_after_poll (hp : s.seq.pc = .poll) (hrun : s.cr.eventsStopped = false) :
    (s.par.pollLimit = none → t.seq.pc = .poll) ∧
      (∀ n, s.par.pollLimit = some n → t.seq.pc = if n ≤ s.seq.pollCnt + 1 then .fatal else .poll) := by
  rw [seqStep_poll s hp] at h
  constructor
  · intro hlimit
    exact pc_of_answer (pollStep_unlimited hrun hlimit) h
  · intro n hlimit
    exact (pc_of_answer (pollStep_limited hrun hlimit) h).trans (pollLimited_pc n s)

theorem pc_after_check (hp : s.seq.pc = .check) :
    t.seq.pc = if (s.seq.xfer = .rd ∧ s.cr.txdAmount = 1 ∧ s.cr.rxdAmount = 1) ∨
      (s.seq.xfer = .wr ∧ s.cr.txdAmount = 2) then .clear else .fatal := by
  cases hx : s.seq.xfer with
  | rd =>
    rw [seqStep_checkRd s hp hx] at h
    simp [checkRd_pc h]
  | wr =>
    rw [seqStep_checkWr s hp hx] at h
    simp [checkWr_pc h]

theorem pc_after_clear (hp : s.seq.pc = .clear) : t.seq.pc = .complete := by
  cases hx : s.seq.xfer with
  | rd => exact pc_of_answer ((seqStep_clearRd s hp hx).trans (clearRd_eq s)) h
  | wr => exact pc_of_answer ((seqStep_clearWr s hp hx).trans (clearWr_eq s)) h

/-- After a read COMPLETE responds or begins the write half, by the opcode (R159). -/
theorem after_completeRd (hp : s.seq.pc = .complete) (hx : s.seq.xfer = .rd) :
    (s.seq.op = 0x03 ∧ t.seq.pc = .idle) ∨ (s.seq.op = 0x05 ∧ t.seq.pc = .setup ∧ t.seq.xfer = .wr) := by
  rw [seqStep_completeRd s hp hx] at h
  obtain ⟨v, _, ⟨hop, rfl⟩ | ⟨hop, rfl⟩⟩ := completeRd_next h
  · exact .inl ⟨hop, rfl⟩
  · exact .inr ⟨hop, rfl, rfl⟩

/-- COMPLETE ends the command after a write, and after the read of REG_READ (R159, R160). -/
theorem pc_after_complete_end (hp : s.seq.pc = .complete) (hend : s.seq.xfer = .wr ∨ s.seq.op = 0x03) :
    t.seq.pc = .idle := by
  cases hx : s.seq.xfer with
  | wr => exact pc_of_answer (seqStep_completeWr s hp hx) h
  | rd =>
    rcases after_completeRd h hp hx with ⟨_, hpc⟩ | ⟨hop, _⟩
    · exact hpc
    · simp [hx, hop] at hend

/-- COMPLETE begins the write half after the read of REG_WRITE_MASK (R159). -/
theorem after_complete_readHalf (hp : s.seq.pc = .complete) (hx : s.seq.xfer = .rd) (hop : s.seq.op = 0x05) :
    t.seq.pc = .setup ∧ t.seq.xfer = .wr := by
  rcases after_completeRd h hp hx with ⟨hread, _⟩ | ⟨_, hnext⟩
  · simp [hop] at hread
  · exact hnext

end

/-! ### The statement -/

/-- Settles O25: the edges out of each phase; a step that changes nothing, at IDLE with no word and at FATAL, answers
the state itself. -/
theorem phaseGraph : Obligations.PhaseGraph := by
  unfold Obligations.PhaseGraph
  intro s t h
  refine ⟨fun hp hw => ?_, fun w => pc_after_accept h, pc_after_setup h, pc_after_trigger h, fun hp hstopped => ?_,
    pc_after_poll h, fun hp => ?_, pc_after_check h, pc_after_clear h, pc_after_complete_end h,
    after_complete_readHalf h, fun hp => ?_⟩
  · cases (seqStep_idle_none s hp hw).symm.trans h
    rfl
  · exact pc_of_answer ((seqStep_poll s hp).trans (pollStep_stopped hstopped)) h
  · rw [seqStep_poll s hp] at h
    exact pollStep_cr_buf h
  · cases (seqStep_fatal s hp).symm.trans h
    rfl

end Sys2Proof.Machine
end

section
/-! PROOF. The engine's steps (R190 to R199): what each answers, by the device's answer and by the shortcuts. -/

namespace Sys2Proof.Machine

/-! ### What the shared operations answer -/

/-- A read outside BUF is refused (R207). -/
theorem bufRead_outOfRange {a : Nat} {s : State} (h : s.par.bufSize ≤ a) :
    bufRead a s = .refused (.bufOutOfRange a) := if_neg (Nat.not_lt.2 h)

/-- A byte that nothing has written has no value to read (R77). -/
theorem bufRead_unwritten {a : Nat} {s : State} (hsize : a < s.par.bufSize) (hbyte : bufByte s a = none) :
    bufRead a s = .fault (.bufUnwritten a) := by
  have hread : memRead bufUnlisted s.buf a = none := hbyte
  simp [bufRead, hsize, hread]

/-- A write outside BUF is refused (R207). -/
theorem bufWrite_outOfRange {a : Nat} (v : Byte) {s : State} (h : s.par.bufSize ≤ a) :
    bufWrite a v s = .refused (.bufOutOfRange a) := if_neg (Nat.not_lt.2 h)

/-- A written byte touches nothing but the device (R78). -/
theorem devWriteByte_frame {i : Nat} {b : Byte} {s q : State} {k : Ack} (h : devWriteByte i b s = .next (k, q)) :
    ∃ d, q = { s with dev := d } := by
  rcases devWriteByte_next h with hq | ⟨_, _, hq⟩ | ⟨_, _, hq⟩
  · exact ⟨_, hq⟩
  · cases hq; exact ⟨_, rfl⟩
  · cases hq; exact ⟨_, rfl⟩

/-! ### E-TXDATA and E-RXDATA by the device's answer -/

theorem engTxData_answer {s q : State} {b : Byte} {k : Ack}
    (hb : bufRead (s.cr.txdPtr.toNat + s.cr.txdAmount.toNat) s = .next b) :
    devWriteByte s.cr.txdAmount.toNat b s = .next (k, q) → engTxData s = .next (match k with
      | .ack => { q with wire := s.wire ++ [.sent b .a], cr.txdAmount := s.cr.txdAmount + 1 }
      | .nack => { q with wire := s.wire ++ [.sent b .n], eng := .stalled }
      | .abort => { q with eng := .stopping }) := by
  intro hq
  obtain ⟨d, rfl⟩ := devWriteByte_frame hq
  rw [engTxData, hb, chain_next, hq, chain_next]
  cases k <;> rfl

theorem engRxData_abort {s q : State} (hq : devReadByte s.cr.rxdAmount.toNat s = .next (.abort, q)) :
    engRxData s = .next { q with eng := .stopping } := by
  rw [engRxData, hq, chain_next]
  rfl

theorem engRxData_byte {s q : State} {v : Byte} (hq : devReadByte s.cr.rxdAmount.toNat s = .next (.byte v, q))
    (hsize : s.cr.rxdPtr.toNat + s.cr.rxdAmount.toNat < s.par.bufSize) :
    engRxData s = .next { q with
      buf := memWrite bufUnlisted s.buf (s.cr.rxdPtr.toNat + s.cr.rxdAmount.toNat) v
      cr.rxdAmount := s.cr.rxdAmount + 1
      wire := s.wire ++ [.got v (masterAck (s.cr.rxdAmount + 1) s.cr.rxdMaxcnt)] } := by
  obtain rfl : q = { s with dev := countQuestion s.dev } := devReadByte_next hq
  have hwrite := bufWrite_eq (s := { s with dev := countQuestion s.dev }) v hsize
  rw [engRxData, hq, chain_next]
  dsimp only
  rw [hwrite]
  rfl

theorem engRxData_outOfRange {s q : State} {v : Byte}
    (hq : devReadByte s.cr.rxdAmount.toNat s = .next (.byte v, q))
    (hsize : s.par.bufSize ≤ s.cr.rxdPtr.toNat + s.cr.rxdAmount.toNat) :
    engRxData s = .refused (.bufOutOfRange (s.cr.rxdPtr.toNat + s.cr.rxdAmount.toNat)) := by
  obtain rfl : q = { s with dev := countQuestion s.dev } := devReadByte_next hq
  have hwrite := bufWrite_outOfRange (s := { s with dev := countQuestion s.dev }) v hsize
  rw [engRxData, hq, chain_next]
  dsimp only
  rw [hwrite, chain_refused]

/-! ### The completions of a phase by the shortcuts -/

theorem engLastTx_startRx {s : State} (hrx : txDoneStartRx s = true) (hstop : txDoneStop s = false) :
    engLastTx s = .next (setEng .rxAddr (generateTxDone s)) := by rw [engLastTx, hrx, hstop]

theorem engLastTx_stop {s : State} (hrx : txDoneStartRx s = false) (hstop : txDoneStop s = true) :
    engLastTx s = .next (setEng .stopping (generateTxDone s)) := by rw [engLastTx, hrx, hstop]

theorem engLastTx_noLink {s : State} (hrx : txDoneStartRx s = false) (hstop : txDoneStop s = false) :
    engLastTx s = .next (setEng .stalled (generateTxDone s)) := by rw [engLastTx, hrx, hstop]

theorem engLastTx_bothLinks {s : State} (hrx : txDoneStartRx s = true) (hstop : txDoneStop s = true) :
    engLastTx s = .refused .bothTxDoneLinks := by rw [engLastTx, hrx, hstop]

theorem engLastRx_stop {s : State} (h : rxDoneStop s = true) :
    engLastRx s = .next (setEng .stopping (generateRxDone s)) := by rw [engLastRx, if_pos h]

theorem engLastRx_noLink {s : State} (h : rxDoneStop s = false) :
    engLastRx s = .next (setEng .stalled (generateRxDone s)) := by
  rw [engLastRx, if_neg (Bool.eq_false_iff.1 h)]

/-! ### The statements -/

/-- Settles O26: E-TXADDR's answer, where the device, asked after the start condition, does not see it. -/
theorem engTxAddrStep : Obligations.EngTxAddrStep := by
  unfold Obligations.EngTxAddrStep
  intro s k hen hg hk
  rw [engStep_txAddr s hen hg, engTxAddr_eq, devAddrAck_emit, hk]
  cases k <;> rfl

/-- Settles O29: E-RXADDR's answer, where the device, asked after the repeated start, does not see it. -/
theorem engRxAddrStep : Obligations.EngRxAddrStep := by
  unfold Obligations.EngRxAddrStep
  intro s k hen hg hk
  rw [engStep_rxAddr s hen hg, engRxAddr_eq, devAddrAck_emit, hk]
  cases k <;> rfl

/-- Settles O27: E-TXDATA's answer by the device's, and the two stops of its BUF read. -/
theorem engTxDataStep : Obligations.EngTxDataStep := by
  unfold Obligations.EngTxDataStep
  intro s hen hg hlt
  rw [engStep_txData s hen hg hlt]
  refine ⟨fun b k q hsize hbyte hq => ?_, fun hsize => ?_, fun hsize hbyte => ?_⟩
  · exact engTxData_answer (bufRead_next.2 ⟨hsize, hbyte⟩) hq
  · rw [engTxData, bufRead_outOfRange hsize, chain_refused]
  · rw [engTxData, bufRead_unwritten hsize hbyte, chain_fault]

/-- Settles O28: each pair of transmit-done links, and the receive-done link, has its answer. -/
theorem phaseCompletionSteps : Obligations.PhaseCompletionSteps := by
  unfold Obligations.PhaseCompletionSteps
  intro s hen
  constructor
  · intro hg hcount
    rw [engStep_lastTx s hen hg hcount]
    exact ⟨engLastTx_startRx, engLastTx_stop, engLastTx_noLink, engLastTx_bothLinks⟩
  · intro hg hcount
    rw [engStep_lastRx s hen hg hcount]
    exact ⟨engLastRx_stop, engLastRx_noLink⟩

/-- Settles O30: E-RXDATA's answer by the device's; of BUF it writes the one byte received. -/
theorem engRxDataStep : Obligations.EngRxDataStep := by
  unfold Obligations.EngRxDataStep
  intro s q r hen hg hlt hq
  rw [engStep_rxData s hen hg hlt]
  refine ⟨?_, ?_, ?_⟩
  · rintro rfl
    exact engRxData_abort hq
  · rintro v rfl hsize
    refine ⟨_, engRxData_byte hq hsize, rfl, ?_, fun a ha => ?_⟩
    · exact memRead_bufWrite_same s.buf _ v
    · exact memRead_memWrite_other _ _ _ a v ha
  · rintro v rfl hsize
    exact engRxData_outOfRange hq hsize

end Sys2Proof.Machine
end

section
/-! PROOF. The nominal write transaction (R202): the address, the two payload bytes one after the other, the completion
of the phase and the stop condition, with a device that acknowledges each byte. -/

namespace Sys2Proof.Machine

theorem engRun_next {n : Nat} {s t : State} (h : engStep s = .next t) : engRun (n + 1) s = engRun n t := by
  rw [engRun, h, chain_next]

/-- `s` in its transmit phase: the device, `d` now, has acknowledged its address and these payload bytes. -/
def transmitting (s : State) (bytes : List Byte) (d : Device) : State :=
  { s with
    wire := s.wire ++ .start :: .sent (addressByte s.cr.address 0#1) .a :: bytes.map (.sent · .a)
    dev := d, cr.txdAmount := BitVec.ofNat 8 bytes.length, eng := .txData }

theorem transmitting_txdAmount (s : State) {bytes : List Byte} (d : Device) (h : bytes.length ≤ 1) :
    (transmitting s bytes d).cr.txdAmount.toNat = bytes.length := by
  simp only [transmitting, BitVec.toNat_ofNat]
  omega

/-- The byte E-TXDATA reads next is the one after those acknowledged (R193). -/
theorem bufRead_transmitting {s : State} {bytes : List Byte} {d : Device} {b : Byte} (hptr : s.cr.txdPtr = 0)
    (hfirst : bytes.length ≤ 1) (hsize : bytes.length < s.par.bufSize) (hbyte : bufByte s bytes.length = some b) :
    bufRead ((transmitting s bytes d).cr.txdPtr.toNat + (transmitting s bytes d).cr.txdAmount.toNat)
      (transmitting s bytes d) = .next b := by
  have hptr' : (transmitting s bytes d).cr.txdPtr.toNat = 0 := congrArg BitVec.toNat hptr
  rw [hptr', transmitting_txdAmount s d hfirst, Nat.zero_add]
  exact bufRead_next.2 ⟨hsize, hbyte⟩

section
variable {s : State} (hen : s.cr.enable = true)
include hen

/-- A well-behaved device acknowledges its address, and the transmit phase begins (R192). -/
theorem engStep_beginTransmit (hg : s.eng = .txAddr) (htx : s.cr.txdAmount = 0) (hw : s.dev.WellBehaved s.cr.address) :
    engStep s = .next (transmitting s [] (countQuestion s.dev)) := by
  rw [engStep_txAddr s hen hg, engTxAddr_eq, devAddrAck_emit, devAddrAck_wellBehaved 0#1 hw rfl]
  rw [transmitting, List.length_nil, ← show s.cr.txdAmount = BitVec.ofNat 8 0 from htx]
  rfl

variable {bytes : List Byte} {d : Device}

/-- A well-behaved device acknowledges the next of a command's two payload bytes, and stays well-behaved (R193). -/
theorem engStep_transmitByte {b : Byte} (hptr : s.cr.txdPtr = 0) (hfirst : bytes.length ≤ 1)
    (hmore : bytes.length < s.cr.txdMaxcnt.toNat) (hsize : bytes.length < s.par.bufSize)
    (hbyte : bufByte s bytes.length = some b) (hw : d.WellBehaved s.cr.address) :
    ∃ d', d'.WellBehaved s.cr.address ∧
      engStep (transmitting s bytes d) = .next (transmitting s (bytes ++ [b]) d') := by
  have hcount := transmitting_txdAmount s d hfirst
  obtain ⟨d', hq, hw', _⟩ :=
    devWriteByte_wellBehaved (s := transmitting s bytes d) bytes.length b (by omega) hw rfl
  rw [← hcount] at hq
  have hread := bufRead_transmitting (d := d) hptr hfirst hsize hbyte
  refine ⟨d', hw', ?_⟩
  rw [engStep_txData (transmitting s bytes d) hen rfl (hcount ▸ hmore), engTxData_answer hread hq]
  simp [transmitting, BitVec.ofNat_add]

/-- The phase of a write ends by its link to the stop condition (R194). -/
theorem engStep_endTransmit (hcount : BitVec.ofNat 8 bytes.length = s.cr.txdMaxcnt) (hrx : txDoneStartRx s = false)
    (hstop : txDoneStop s = true) :
    engStep (transmitting s bytes d) = .next (setEng .stopping (generateTxDone (transmitting s bytes d))) :=
  (engStep_lastTx (transmitting s bytes d) hen rfl hcount).trans (engLastTx_stop hrx hstop)

end

/-- Settles O34: the five steps one after the other. -/
theorem nominalWriteTransaction : Obligations.NominalWriteTransaction := by
  unfold Obligations.NominalWriteTransaction
  intro s dev reg data hen hg hsize ha hw hreg hdata hshorts hptr hmax htx hrx hrxDone
  subst ha
  have hbegin := engStep_beginTransmit hen hg htx hw
  obtain ⟨d₁, hw₁, hsendReg⟩ := engStep_transmitByte hen (bytes := []) hptr (by decide) (by simp [hmax])
    (show 0 < _ by omega) hreg hw.count
  obtain ⟨d₂, _, hsendData⟩ := engStep_transmitByte hen (bytes := [reg]) hptr (by simp) (by simp [hmax])
    (show 1 < _ by omega) hdata hw₁
  have hend := engStep_endTransmit hen (bytes := [reg, data]) (d := d₂) hmax.symm
    (by simp [txDoneStartRx, hshorts]) (by simp [txDoneStop, hshorts])
  refine ⟨_, (engRun_next hbegin).trans <| (engRun_next hsendReg).trans <| (engRun_next hsendData).trans <|
    (engRun_next hend).trans <| engRun_next (engStep_stopping _ hen rfl), ?_, rfl, hrx, rfl, hrxDone, rfl, rfl⟩
  simp [transmitting, writeTrace]

end Sys2Proof.Machine
end

section
/-! PROOF. The engine at rest (R190, R198, R199): whatever agent moves, an engine without an enabled step changes
only where TRIGGER starts it. -/

namespace Sys2Proof.Machine

/-! ### An engine without an enabled step -/

theorem engEnabled_of_idle {s : State} (h : s.eng = .idle) : engEnabled s = false := by simp [engEnabled, h]

theorem engEnabled_of_stalled {s : State} (h : s.eng = .stalled) : engEnabled s = false := by simp [engEnabled, h]

theorem engEnabled_of_inactive {s : State} (h : s.cr.enable = false) : engEnabled s = false := by simp [engEnabled, h]

/-- What a step leaves while the engine has none enabled: the wire, and the engine with its counters but where TRIGGER
starts it; and it sets no event flag. -/
abbrev RestFrame (s t : State) : Prop :=
  t.wire = s.wire ∧
    ((t.eng = s.eng ∧ t.cr.txdAmount = s.cr.txdAmount ∧ t.cr.rxdAmount = s.cr.rxdAmount) ∨
      (s.seq.pc = .trigger ∧ s.eng = .idle)) ∧
    (t.cr.eventsTxDone = true → s.cr.eventsTxDone = true) ∧
    (t.cr.eventsRxDone = true → s.cr.eventsRxDone = true) ∧
    (t.cr.eventsStopped = true → s.cr.eventsStopped = true)

theorem RestFrame.refl (s : State) : RestFrame s s := ⟨rfl, .inl ⟨rfl, rfl, rfl⟩, id, id, id⟩

theorem agentStep_rest {a : Agent} {s t : State} (hrest : engEnabled s = false) (h : agentStep a s = .next t) :
    RestFrame s t := by
  cases a with
  | host =>
    cases h
    obtain ⟨v, p, u, e⟩ := hostStep_eq s
    rw [e]
    exact RestFrame.refl s
  | seq =>
    obtain ⟨⟨_, _, _, _, hwire⟩, _, heng, hflags⟩ := seqStep_frame h
    exact ⟨hwire, heng.imp id fun ⟨hp, _, hg⟩ => ⟨hp, hg⟩, hflags⟩
  | eng =>
    cases (engStep_disabled s hrest).symm.trans h
    exact RestFrame.refl s

theorem step_rest {s t : State} (hrest : engEnabled s = false) (hr : noReset s) (h : step s = .next t) :
    RestFrame s t := by
  rcases step_noReset_cases hr with ⟨e, a, hstep, _⟩ | ⟨hstep, _⟩ <;> rw [hstep] at h
  · exact agentStep_rest (s := { s with env := e }) hrest h
  · cases h; exact RestFrame.refl s

/-! ### A sequencer that polls without a limit -/

theorem agentStep_stays_in_poll {a : Agent} {s t : State} (hp : s.seq.pc = .poll) (hrun : s.cr.eventsStopped = false)
    (hlimit : s.par.pollLimit = none) (h : agentStep a s = .next t) : t.seq.pc = .poll := by
  cases a with
  | host =>
    cases h
    obtain ⟨v, p, u, e⟩ := hostStep_eq s
    rw [e]
    exact hp
  | seq =>
    obtain ⟨hstay, _⟩ := pc_after_poll h hp hrun
    exact hstay hlimit
  | eng => rw [engStep_seq h, hp]

theorem step_stays_in_poll {s t : State} (hp : s.seq.pc = .poll) (hrun : s.cr.eventsStopped = false)
    (hlimit : s.par.pollLimit = none) (hr : noReset s) (h : step s = .next t) : t.seq.pc = .poll := by
  rcases step_noReset_cases hr with ⟨e, a, hstep, _⟩ | ⟨hstep, _⟩ <;> rw [hstep] at h
  · exact agentStep_stays_in_poll (s := { s with env := e }) hp hrun hlimit h
  · cases h; exact hp

/-! ### The statement -/

/-- Settles O31: E-STOP's answer; an engine that is IDLE, STALLED or inactive has no step, and what moves then is the
sequencer, which starts it from IDLE only, or HOST. -/
theorem stopAndStalled : Obligations.StopAndStalled := by
  unfold Obligations.StopAndStalled
  intro s
  have hstays (h : engEnabled s = false) : engEnabled s = false ∧ engStep s = .next s := ⟨h, engStep_disabled s h⟩
  refine ⟨engStep_stopping s, fun hg => hstays (engEnabled_of_idle hg), fun hg => hstays (engEnabled_of_stalled hg),
    fun hen => hstays (engEnabled_of_inactive hen), fun t hg hr h hleft => ?_, fun t hg hr h => ?_⟩
  · obtain ⟨_, ⟨heng, _⟩ | ⟨hp, _⟩, _⟩ := step_rest (engEnabled_of_idle hg) hr h
    · exact absurd (heng.trans hg) hleft
    · exact hp
  · obtain ⟨hwire, ⟨heng, htx, hrx⟩ | ⟨_, hidle⟩, htxDone, hrxDone, hstopped⟩ :=
      step_rest (engEnabled_of_stalled hg) hr h
    · exact ⟨heng.trans hg, hwire, htx, hrx, htxDone, hrxDone, hstopped,
        fun hp hrun hlimit => step_stays_in_poll hp hrun hlimit hr h⟩
    · cases hg.symm.trans hidle

end Sys2Proof.Machine
end

section
/-! PROOF. The arbiter (R230 to R233): CHECK by the counters, and POLL then CHECK against the verdict. -/

namespace Sys2Proof.Machine

/-! ### CHECK by the counters -/

section
variable {s : State} (hp : s.seq.pc = .check)
include hp

/-- CHECK(RD) raises where a counter is not 1 (R232). -/
theorem seqStep_checkRd_mismatch (hx : s.seq.xfer = .rd) (hne : s.cr.txdAmount ≠ 1 ∨ s.cr.rxdAmount ≠ 1) :
    seqStep s = .next (raiseFatal .countMismatchRd s) :=
  (seqStep_checkRd s hp hx).trans (if_pos hne)

/-- CHECK(RD) passes where both counters are 1 (R232). -/
theorem seqStep_checkRd_pass (hx : s.seq.xfer = .rd) (htx : s.cr.txdAmount = 1) (hrx : s.cr.rxdAmount = 1) :
    seqStep s = .next (setPc .clear s) :=
  (seqStep_checkRd s hp hx).trans (if_neg (by simp [htx, hrx]))

/-- CHECK(WR) raises where the transmit counter is not 2 (R233). -/
theorem seqStep_checkWr_mismatch (hx : s.seq.xfer = .wr) (hne : s.cr.txdAmount ≠ 2) :
    seqStep s = .next (raiseFatal .countMismatchWr s) :=
  (seqStep_checkWr s hp hx).trans (if_pos hne)

/-- CHECK(WR) passes where the transmit counter is 2, whatever was received (R233). -/
theorem seqStep_checkWr_pass (hx : s.seq.xfer = .wr) (htx : s.cr.txdAmount = 2) :
    seqStep s = .next (setPc .clear s) :=
  (seqStep_checkWr s hp hx).trans (if_neg (not_not.2 htx))

end

/-- Settles O21: the four answers of CHECK, by the kind of transfer and the counters. -/
theorem checkStep : Obligations.CheckStep := by
  unfold Obligations.CheckStep
  intro s hp
  exact ⟨fun hx => ⟨seqStep_checkRd_mismatch hp hx, seqStep_checkRd_pass hp hx⟩,
    fun hx => ⟨seqStep_checkWr_mismatch hp hx, seqStep_checkWr_pass hp hx⟩⟩

/-! ### The verdict by "stopped" and the kind of transfer -/

theorem verdict_running (txa rxa : Byte) (x : Xfer) : verdict false txa rxa x = .wait := if_pos rfl

theorem verdict_stopped_rd (txa rxa : Byte) :
    verdict true txa rxa .rd = if txa ≠ 1 ∨ rxa ≠ 1 then .fatal .countMismatchRd else .ok := by
  simp [verdict]

theorem verdict_stopped_wr (txa rxa : Byte) :
    verdict true txa rxa .wr = if txa ≠ 2 then .fatal .countMismatchWr else .ok := by
  simp [verdict]

/-! ### POLL, then CHECK -/

/-- A POLL that reads "stopped" hands over to CHECK (R231). -/
theorem chain_seqStep_poll_stopped {s : State} (hp : s.seq.pc = .poll) (h : s.cr.eventsStopped = true) :
    chain (seqStep s) seqStep = seqStep (setPc .check s) := by
  rw [seqStep_poll s hp, pollStep_stopped h, chain_next]

/-- Settles O22: POLL decides WAIT by "stopped" alone; otherwise CHECK decides, on the same counters. -/
theorem verdictOverPollAndCheck : Obligations.VerdictOverPollAndCheck := by
  unfold Obligations.VerdictOverPollAndCheck
  intro s hp hlimit
  rcases Bool.eq_false_or_eq_true s.cr.eventsStopped with hstopped | hrun
  · rw [chain_seqStep_poll_stopped hp hstopped, hstopped]
    cases hx : s.seq.xfer with
    | rd =>
      rw [verdict_stopped_rd]
      by_cases hne : s.cr.txdAmount ≠ 1 ∨ s.cr.rxdAmount ≠ 1
      · rw [if_pos hne]
        exact seqStep_checkRd_mismatch (s := setPc .check s) rfl hx hne
      · rw [if_neg hne]
        obtain ⟨htx, hrx⟩ := not_or.1 hne
        exact seqStep_checkRd_pass (s := setPc .check s) rfl hx (not_not.1 htx) (not_not.1 hrx)
    | wr =>
      rw [verdict_stopped_wr]
      by_cases hne : s.cr.txdAmount ≠ 2
      · rw [if_pos hne]
        exact seqStep_checkWr_mismatch (s := setPc .check s) rfl hx hne
      · rw [if_neg hne]
        exact seqStep_checkWr_pass (s := setPc .check s) rfl hx (not_not.1 hne)
  · rw [hrun, verdict_running, seqStep_poll s hp, pollStep_unlimited hrun hlimit, setPc_same s hp]

end Sys2Proof.Machine
end

section
/-! PROOF. Field writes and bit writes (R252): the mask of a one-bit entry is the code 1 shifted into place. -/

namespace Sys2Proof

/-- The entry's one bit is within the byte, so the code 1 is not shifted out (R251). -/
theorem RMapEntry.one_shiftLeft_of_oneBit {e : RMapEntry} (h : e.oneBit = true) : (1 : Byte) <<< e.shift = e.mask := by
  have hmask : e.mask.toNat = 2 ^ e.shift := of_decide_eq_true (Bool.and_eq_true_iff.1 h).2
  apply BitVec.eq_of_toNat_eq
  calc ((1 : Byte) <<< e.shift).toNat
      = 2 ^ e.shift % 2 ^ 8 := by simp [Nat.shiftLeft_eq]
    _ = e.mask.toNat % 2 ^ 8 := by rw [hmask]
    _ = e.mask.toNat := Nat.mod_eq_of_lt e.mask.isLt

namespace Machine

/-- A bit write of a one-bit entry is the field write of 1 or 0 (R252). -/
theorem bitWrite_eq_fieldWrite {e : RMapEntry} (h : e.oneBit = true) (on : Bool) :
    bitWrite e on = fieldWrite e (if on then 1 else 0) := by
  cases on with
  | false => exact congrArg (Instr.regWriteMask e.dev e.reg e.mask) (BitVec.zero_shiftLeft e.shift).symm
  | true => exact congrArg (Instr.regWriteMask e.dev e.reg e.mask) (RMapEntry.one_shiftLeft_of_oneBit h).symm

/-- Settles O56: the two writes by definition, and the one-bit law by the switch. -/
theorem fieldAndBitWrites : Obligations.FieldAndBitWrites := by
  unfold Obligations.FieldAndBitWrites
  intro e code on
  exact ⟨rfl, rfl, fun h => bitWrite_eq_fieldWrite h on⟩

end Machine
end Sys2Proof
end

section
/-! PROOF. FATAL without a reset (R291): the sequencer has no step, the engine writes only its own registers, and HOST takes
at most the response still valid. -/

namespace Sys2Proof.Machine

theorem seqEnabled_of_fatal {s : State} (h : s.seq.pc = .fatal) : seqEnabled s = false := by simp only [seqEnabled, h]

/-- What steps of HOST and the engine alone leave: the sequencer's state but for the valid bit, which HOST lowers (R299), a
word on the port, and ENABLE and the pins. -/
abbrev HaltFrame (s t : State) : Prop :=
  (∃ v, t.seq = { s.seq with respValid := v }) ∧ (∀ w, s.port = some w → t.port = some w) ∧
    t.cr.enable = s.cr.enable ∧ t.cr.pselScl = s.cr.pselScl ∧ t.cr.pselSda = s.cr.pselSda

theorem HaltFrame.refl (s : State) : HaltFrame s s := ⟨⟨_, rfl⟩, fun _ hw => hw, rfl, rfl, rfl⟩

theorem HaltFrame.trans {s t u : State} (h : HaltFrame s t) (h' : HaltFrame t u) : HaltFrame s u := by
  obtain ⟨⟨_, hseq⟩, hport, hen, hscl, hsda⟩ := h
  obtain ⟨⟨v, hseq'⟩, hport', hen', hscl', hsda'⟩ := h'
  exact ⟨⟨v, by rw [hseq', hseq]⟩, fun w hw => hport' w (hport w hw), hen'.trans hen, hscl'.trans hscl, hsda'.trans hsda⟩

theorem HaltFrame.pc {s t : State} (h : HaltFrame s t) : t.seq.pc = s.seq.pc := by
  obtain ⟨⟨_, hseq⟩, _⟩ := h
  rw [hseq]

/-- HOST never takes a presented word back: it presents only where the port is empty (R130). -/
theorem hostStep_port_of_some {s : State} {w : CmdWord} (h : s.port = some w) : (hostStep s).port = some w := by
  rcases hostStep_port_cases s with hkept | ⟨hmay, _⟩
  · exact hkept.trans h
  · obtain ⟨_, _, _, hnone⟩ := (mayPresent_iff s).1 hmay
    cases h.symm.trans hnone

theorem haltFrame_hostStep (s : State) : HaltFrame s (hostStep s) := by
  obtain ⟨hcr, _, _, _, _, _, _, hseq⟩ := hostStep_block s
  exact ⟨⟨_, hseq⟩, fun _ hw => hostStep_port_of_some hw, by rw [hcr], by rw [hcr], by rw [hcr]⟩

/-- At FATAL whatever agent moves leaves the halted block, and the schedule, as they are (R291). -/
theorem agentStep_haltFrame_of_fatal {a : Agent} {s t : State} (hp : s.seq.pc = .fatal) (h : agentStep a s = .next t) :
    HaltFrame s t ∧ t.env = s.env := by
  cases a with
  | host =>
    cases h
    obtain ⟨_, _, _, _, _, henv, _⟩ := hostStep_block s
    exact ⟨haltFrame_hostStep s, henv⟩
  | seq => cases (seqStep_fatal s hp).symm.trans h; exact ⟨HaltFrame.refl s, rfl⟩
  | eng =>
    rcases engStep_frame h with rfl | ⟨_, ⟨hseq, hport, _, henv, _⟩, ⟨_, hen, hscl, hsda, _⟩, _⟩
    · exact ⟨HaltFrame.refl t, rfl⟩
    · exact ⟨⟨⟨_, hseq⟩, fun _ hw => hport.trans hw, hen, hscl, hsda⟩, henv⟩

/-- At FATAL a step other than the reset event leaves the halted block as it is, and brings no reset closer (R291). -/
theorem step_haltFrame_of_fatal {s t : State} (hp : s.seq.pc = .fatal) (hr : noReset s) (h : step s = .next t) :
    HaltFrame s t ∧ noReset t := by
  rcases step_noReset_cases hr with ⟨e, a, hstep, _, hr'⟩ | ⟨hstep, _⟩ <;> rw [hstep] at h
  · obtain ⟨hframe, henv⟩ := agentStep_haltFrame_of_fatal (s := { s with env := e }) hp h
    exact ⟨hframe, by rwa [noReset, henv]⟩
  · cases h; exact ⟨HaltFrame.refl s, hr⟩

/-- At FATAL any number of steps without a reset leave the halted block as it is (R291). -/
theorem run_haltFrame_of_fatal {n : Nat} {s u : State} (hp : s.seq.pc = .fatal) (hr : noReset s)
    (h : Sys2Proof.core.run n s = .next u) : HaltFrame s u := by
  induction n generalizing s with
  | zero => cases h; exact HaltFrame.refl _
  | succ n ih =>
    obtain ⟨t, hstep, hrun⟩ := core_run_inv h
    obtain ⟨hframe, hr'⟩ := step_haltFrame_of_fatal hp hr hstep
    exact hframe.trans (ih (hframe.pc.trans hp) hr' hrun)

/-- Settles O39, by induction on the number of steps: each leaves the halted block as it is, and so at FATAL. -/
theorem fatalAbsorbing : Obligations.FatalAbsorbing := by
  unfold Obligations.FatalAbsorbing
  intro n s u hp hr h
  have hframe := run_haltFrame_of_fatal hp hr h
  have ⟨⟨_, hseq⟩, hport, hcr⟩ := hframe
  exact ⟨seqEnabled_of_fatal hp, hframe.pc.trans hp, by rw [hseq], by rw [hseq], by rw [hseq], hport, hcr⟩

end Sys2Proof.Machine
end

section
/-! PROOF. The encoder against the decoder (R103): encoding puts a command's operands where the decoder cuts them, and a
legal word has nothing else in it. -/

namespace Sys2Proof

/-! ### The fields of an encoded command -/

theorem opField_encode (i : Instr) : opField (encode i) = i.opcode := by
  cases i with
  | enable clockPin dataPin fast => exact Laws.OpcodeByte.enable clockPin dataPin fast
  | disable => exact Laws.OpcodeByte.disable
  | regRead dev reg => exact Laws.OpcodeByte.regRead dev reg
  | regWrite dev reg data => exact Laws.OpcodeByte.regWrite dev reg data
  | regWriteMask dev reg mask data => exact Laws.OpcodeByte.regWriteMask dev reg mask data

/-- The encoder leaves the fields that R101 marks "must be 0" at 0. -/
theorem reservedZero_encode (i : Instr) : i.reservedZero (encode i) = true := by
  cases i <;> simp [Instr.reservedZero, encode]

/-- The operands of a legal command, cut from its encoding, are its own (R101). -/
theorem cutFrom_encode {pinCount : Nat} {i : Instr} (h : i.wf pinCount = true) :
    i.cutFrom pinCount (encode i) = .ok i := by
  cases i with
  | enable clockPin dataPin fast =>
    simp only [Instr.wf, Bool.and_eq_true, decide_eq_true_eq] at h
    simp [Instr.cutFrom, encode, fastOperand, h]
  | disable => rfl
  | regRead dev reg => simp [Instr.cutFrom, encode, devOperand]
  | regWrite dev reg data => simp [Instr.cutFrom, encode, devOperand]
  | regWriteMask dev reg mask data => simp [Instr.cutFrom, encode, devOperand]

/-! ### The fields of a legal word -/

/-- A byte with bit 7 clear is the byte of the device address below it. -/
theorem devByte_of_bit7 {x : Byte} (h : x.getLsbD 7 = false) : devByte (x.extractLsb' 0 7) = x := by
  revert x; decide

/-- A byte with its upper seven bits clear is the byte of its bit 0. -/
theorem fastByte_of_upper7 {x : Byte} (h : x.extractLsb' 1 7 = 0#7) : fastByte (x.getLsbD 0) = x := by
  revert x; decide

/-- A decoded command's word has its reserved fields 0, and the command is the one cut from it. -/
theorem cutFrom_of_decode {pinCount : Nat} {w : CmdWord} {i : Instr} (h : decode pinCount w = .ok i) :
    i.reservedZero w = true ∧ i.cutFrom pinCount w = .ok i := by
  rw [decode_of_opField pinCount (opField_of_decode h), ifReservedZero] at h
  split at h
  next hzero => exact ⟨hzero, h⟩
  next => cases h

/-- Encoding the operands cut from a word puts every field back, where the reserved ones are 0. -/
theorem encode_of_cutFrom {pinCount : Nat} {w : CmdWord} {i : Instr} (hzero : i.reservedZero w = true)
    (h : i.cutFrom pinCount w = .ok i) : encode i = cmd40 i.opcode (aField w) (bField w) (cField w) (dField w) := by
  cases i with
  | enable clockPin dataPin fast =>
    simp only [Instr.reservedZero, Bool.and_eq_true, decide_eq_true_eq] at hzero
    obtain ⟨hc, hd⟩ := hzero
    rw [Instr.cutFrom] at h
    split at h <;> cases h
    rw [encode, fastOperand, fastByte_of_upper7 hc, hd, Instr.opcode]
  | disable =>
    simp only [Instr.reservedZero, Bool.and_eq_true, decide_eq_true_eq] at hzero
    obtain ⟨⟨⟨ha, hb⟩, hc⟩, hd⟩ := hzero
    rw [encode, ha, hb, hc, hd, Instr.opcode]
  | regRead dev reg =>
    simp only [Instr.reservedZero, Bool.and_eq_true, Bool.not_eq_true', decide_eq_true_eq] at hzero
    obtain ⟨⟨ha, hc⟩, hd⟩ := hzero
    cases h
    rw [encode, devOperand, devByte_of_bit7 ha, hc, hd, Instr.opcode]
  | regWrite dev reg data =>
    simp only [Instr.reservedZero, Bool.and_eq_true, Bool.not_eq_true', decide_eq_true_eq] at hzero
    obtain ⟨ha, hd⟩ := hzero
    cases h
    rw [encode, devOperand, devByte_of_bit7 ha, hd, Instr.opcode]
  | regWriteMask dev reg mask data =>
    simp only [Instr.reservedZero, Bool.not_eq_true'] at hzero
    cases h
    rw [encode, devOperand, devByte_of_bit7 hzero, Instr.opcode]

/-- A command cut from a word is legal: an ENABLE's pins were compared with PIN_COUNT (R101). -/
theorem wf_of_cutFrom {pinCount : Nat} {w : CmdWord} {i : Instr} (h : i.cutFrom pinCount w = .ok i) :
    i.wf pinCount = true := by
  cases i with
  | enable clockPin dataPin fast =>
    rw [Instr.cutFrom] at h
    split at h <;> cases h
    next hpins => simpa [Instr.wf] using hpins
  | disable | regRead _ _ | regWrite _ _ _ | regWriteMask _ _ _ _ => rfl

/-! ### The statements -/

/-- Settles O1: the encoding bears the command's opcode, has its reserved fields 0, and the operands are cut back from it. -/
theorem decodeEncodeRoundTrip : Obligations.DecodeEncodeRoundTrip := by
  unfold Obligations.DecodeEncodeRoundTrip
  intro pinCount i hwf
  rw [decode_of_opField pinCount (opField_encode i), reservedZero_encode, cutFrom_encode hwf]
  rfl

/-- Settles O2: the word of a decoded command has the command's opcode and operands, its other fields 0, and a word is its
five fields. -/
theorem encodeOfDecodedWord : Obligations.EncodeOfDecodedWord := by
  unfold Obligations.EncodeOfDecodedWord
  intro pinCount w i h
  obtain ⟨hzero, hcut⟩ := cutFrom_of_decode h
  refine ⟨?_, wf_of_cutFrom hcut⟩
  rw [encode_of_cutFrom hzero hcut, ← opField_of_decode h, cmd40_fields]

/-- Settles O5, by running the decoder on the six words. -/
theorem specWordsDecode : Obligations.SpecWordsDecode := by
  unfold Obligations.SpecWordsDecode
  decide

end Sys2Proof
end

section
/-! PROOF. The statements about the invariant itself (R45, R82) and about the reset event (R320, R321). -/

namespace Sys2Proof.Machine

/-- The state after reset is a launch state, whatever the free values are (R44). -/
theorem launch_reset : Launch State.reset :=
  ⟨⟨rfl, rfl, rfl, rfl, rfl⟩, ⟨rfl, rfl, rfl, rfl, rfl, rfl, rfl⟩, rfl, rfl, rfl, Params.default_wf, rfl, rfl, rfl⟩

/-- Settles O46: the state after reset is a launch state. -/
theorem invariantAtReset : Obligations.InvariantAtReset := by
  unfold Obligations.InvariantAtReset
  exact inv_of_launch launch_reset

/-- Settles O47, by whose step it is: the sequencer's phase by phase, the engine's, HOST's or the reset event. -/
theorem invariantKeptByEveryStep : Obligations.InvariantKeptByEveryStep := by
  unfold Obligations.InvariantKeptByEveryStep
  exact fun s t hi h => inv_step hi h

/-- While the sequencer polls, "stopped" means that the engine is back in IDLE (R198). -/
theorem Inv.idle_of_stopped {s : State} (hi : Inv s) (hp : s.seq.pc = .poll) (h : s.cr.eventsStopped = true) :
    s.eng = .idle := by
  obtain ⟨_, _, _, _, hphase⟩ := hi
  obtain ⟨_, _, _, hidle, _⟩ := (phaseCoherent_poll hp).1 hphase
  exact hidle h

/-- Settles O51: an engine away from IDLE works during a poll that has not read "stopped", or after a fatal halt. -/
theorem engineAtRestOutsidePoll : Obligations.EngineAtRestOutsidePoll := by
  unfold Obligations.EngineAtRestOutsidePoll
  intro s hi hfatal hstopped
  have hidle : s.eng = .idle := by
    by_contra hg
    rcases (hi.engine_active hg).1 with hp | hp
    · exact hg (hi.idle_of_stopped hp (hstopped hp))
    · exact hfatal hp
  exact ⟨hidle, engStep_disabled s (engEnabled_of_idle hidle)⟩

/-! ### Reset -/

theorem step_reset {s : State} {rest : List Turn} (h : s.env.sched = .reset :: rest) :
    step s = .next (resetEvent { s with env.sched := rest }) := by
  simp only [step, machineStep, h, turnStep, dropTurn, List.tail_cons]

/-- A reset keeps the device where it finds the engine idle: no transaction is cut short (R320, U6). -/
theorem deviceAfterReset_of_idle {s : State} (h : s.eng = .idle) : deviceAfterReset s = s.dev := by
  simp [deviceAfterReset, resetCutsDevice, h]

theorem pselIsBound_zero : pselIsBound 0 = false := by decide

/-- Settles O44: the turn is the reset event's, and its answer holds every reset value. -/
theorem resetEventFromAnyState : Obligations.ResetEventFromAnyState := by
  unfold Obligations.ResetEventFromAnyState
  intro s rest h
  exact ⟨_, step_reset h, rfl, rfl, rfl, rfl, rfl, rfl, rfl, rfl, pselIsBound_zero, pselIsBound_zero, rfl, rfl, rfl, rfl,
    rfl, rfl, rfl, fun _ => rfl, fun hg => deviceAfterReset_of_idle hg⟩

/-- After reset no agent has an enabled step (R321). -/
theorem enabledAgents_reset : enabledAgents State.reset = [] := rfl

/-- Settles O45: the reset values are read off, and with no agent enabled the step changes nothing. -/
theorem stateAfterReset : Obligations.StateAfterReset := by
  unfold Obligations.StateAfterReset
  refine ⟨rfl, rfl, rfl, rfl, rfl, rfl, rfl, rfl, rfl, rfl, rfl, rfl, rfl, fun _ => rfl, ?_⟩
  rw [step, machineStep, show State.reset.env.sched = [] from rfl]
  simp only [freeStep, enabledAgents_reset]

end Sys2Proof.Machine
end

section
/-! PROOF. The statements about ACCEPT of a command: which step runs it, and what each command leaves (R130 to R132). -/

namespace Sys2Proof.Machine

/-! ### The step that runs a command -/

theorem seqStep_legal {s : State} {w : CmdWord} {i : Instr} (hp : s.seq.pc = .idle) (hw : s.port = some w)
    (hd : decode s.par.pinCount w = .ok i) : seqStep s = exec i (takePort s) :=
  (seqStep_idle s w hp hw).trans (acceptWord_of_legal (s := takePort s) hd)

theorem seqStep_illegal {s : State} {w : CmdWord} {e : IllegalWord} (hp : s.seq.pc = .idle) (hw : s.port = some w)
    (hd : decode s.par.pinCount w = .error e) : seqStep s = .next (raiseFatal .illegalCommand (takePort s)) :=
  (seqStep_idle s w hp hw).trans (acceptWord_of_illegal (s := takePort s) hd)

/-- A step where no turn is settled and one agent is enabled is that agent's (R12). -/
theorem step_only {s : State} {a : Agent} (hsched : s.env.sched = []) (h : enabledAgents s = [a]) :
    step s = agentStep a s := by
  simp only [step, machineStep, hsched, freeStep, h]

/-- Settles O6: the turn is the sequencer's, by the schedule or alone, and its step at IDLE decodes the word and runs it. -/
theorem stepRunsDecodedCommand : Obligations.StepRunsDecodedCommand := by
  unfold Obligations.StepRunsDecodedCommand
  refine ⟨fun s w rest hp hw hsched => ?_, fun s w i hp hw hsched halone hd => ?_, fun s nbits w i hd => ?_⟩
  · rw [step_turn s .seq rest hsched]
    exact ⟨fun i hd => seqStep_legal (s := { s with env.sched := rest }) hp hw hd,
      fun e hd => seqStep_illegal (s := { s with env.sched := rest }) hp hw hd⟩
  · exact (step_only hsched halone).trans (seqStep_legal hp hw hd)
  · rw [State.withFetchWord, step_turn _ .seq s.env.sched (placeWord_sched _ s)]
    exact seqStep_legal (s := { placeWord (tableWord nbits w) s with env.sched := s.env.sched }) rfl rfl hd

/-! ### What a command leaves -/

/-- Settles O11: each command's answer at IDLE, with the latches written out. -/
theorem transferCommandsLatch : Obligations.TransferCommandsLatch := by
  unfold Obligations.TransferCommandsLatch
  intro dev reg mask data s hp
  exact ⟨exec_regRead_idle dev reg s hp, exec_regWrite_idle dev reg data s hp,
    exec_regWriteMask_idle dev reg mask data s hp⟩

/-- A transfer command is not taken, or latches its operands (R130). -/
theorem exec_transfer_cases {i : Instr} {s t : State}
    (hi : (∃ d r, i = .regRead d r) ∨ (∃ d r b, i = .regWrite d r b) ∨ ∃ d r m b, i = .regWriteMask d r m b)
    (h : exec i s = .next t) : t = s ∨ ∃ op dev reg mask data xfer, t = latchTransfer op dev reg mask data xfer s := by
  by_cases hp : s.seq.pc = .idle
  · obtain ⟨d, r, rfl⟩ | ⟨d, r, b, rfl⟩ | ⟨d, r, m, b, rfl⟩ := hi
    · cases (exec_regRead_idle d r s hp).symm.trans h; exact .inr ⟨_, _, _, _, _, _, rfl⟩
    · cases (exec_regWrite_idle d r b s hp).symm.trans h; exact .inr ⟨_, _, _, _, _, _, rfl⟩
    · cases (exec_regWriteMask_idle d r m b s hp).symm.trans h; exact .inr ⟨_, _, _, _, _, _, rfl⟩
  · cases (exec_other i s hp).symm.trans h; exact .inl rfl

/-- Settles O12: away from IDLE nothing changes, at IDLE the latches only. -/
theorem transferAcceptFrame : Obligations.TransferAcceptFrame := by
  unfold Obligations.TransferAcceptFrame
  intro i s t hi h
  obtain rfl | ⟨op, dev, reg, mask, data, xfer, rfl⟩ := exec_transfer_cases hi h
  · simp
  · exact ⟨rfl, fun _ => rfl, fun _ => rfl, rfl, rfl, rfl, rfl, rfl, rfl, rfl, rfl, rfl, rfl, rfl, rfl, rfl, rfl⟩

/-- What a control command that is not refused changes: ENABLE with the pins and the rate, which DISABLE leaves, and the
response; at IDLE, where it stays (R131, R132). -/
theorem exec_control_cases {i : Instr} {s t : State} (hi : i = .disable ∨ ∃ a b fast, i = .enable a b fast)
    (h : exec i s = .next t) : t = s ∨ s.seq.pc = .idle ∧ ∃ scl sda fast enable,
      t = endCommand 0x00 { s with cr.pselScl := scl, cr.pselSda := sda, cr.frequency := fast, cr.enable := enable } ∧
      (i = .disable → scl = s.cr.pselScl ∧ sda = s.cr.pselSda ∧ fast = s.cr.frequency) := by
  by_cases hp : s.seq.pc = .idle
  · obtain rfl | ⟨a, b, fast, rfl⟩ := hi
    · cases (exec_disable_idle s hp).symm.trans h
      exact .inr ⟨hp, _, _, _, _, rfl, fun _ => ⟨rfl, rfl, rfl⟩⟩
    · by_cases hab : a = b
      · subst hab
        cases (exec_enable_equal a fast s hp).symm.trans h
      · cases (exec_enable_idle a b fast s hp hab).symm.trans h
        exact .inr ⟨hp, _, _, _, _, rfl, nofun⟩
  · cases (exec_other i s hp).symm.trans h; exact .inl rfl

/-- Settles O10: away from IDLE nothing changes, at IDLE the four configuration registers and the response only. -/
theorem controlCommandsFrame : Obligations.ControlCommandsFrame := by
  unfold Obligations.ControlCommandsFrame
  intro i s t hi h
  obtain rfl | ⟨hp, scl, sda, fast, enable, rfl, hdisable⟩ := exec_control_cases hi h
  · simp
  · exact ⟨⟨rfl, rfl, rfl, rfl, rfl, rfl, rfl, rfl, rfl, rfl, hp.symm⟩,
      ⟨rfl, rfl, rfl, rfl, rfl, rfl, rfl, rfl, rfl, rfl, rfl⟩, fun _ => rfl, fun _ => rfl, rfl, rfl, rfl, rfl, rfl, rfl,
      rfl, hdisable⟩

end Sys2Proof.Machine

namespace Sys2Proof

open Machine in
/-- Settles O20: POLL's answer by the flag and the limit. -/
theorem pollStep : Obligations.PollStep := by
  unfold Obligations.PollStep
  intro s hp
  rw [seqStep_poll s hp]
  refine ⟨pollStep_stopped, fun hrun hlimit => ?_, fun n hrun hlimit hcount => ?_, fun n hrun hlimit hcount => ?_⟩
  · rw [pollStep_unlimited hrun hlimit, setPc_same s hp]
  · rw [pollStep_limited hrun hlimit, pollLimited, if_neg (Nat.not_le.2 hcount), setPc_same { s with seq.pollCnt := s.seq.pollCnt + 1 } hp]
  · rw [pollStep_limited hrun hlimit, pollLimited, if_pos hcount]
    rfl

end Sys2Proof
end

section
/-! PROOF. The statements about HOST and its programs (R250 to R264, R286), and about the register space (R27, R71). -/

namespace Sys2Proof.Machine

/-! ### HOST's step -/

theorem hostStep_takes {s : State} (hrun : s.host.halted = false) (hresp : s.seq.respValid = true) :
    hostStep s = takeResponse s := by
  simp [hostStep, hostEnabled, hrun, hresp]

theorem hostStep_halted {s : State} (h : s.host.halted = true) : hostStep s = s := by
  simp [hostStep, hostEnabled, h]

/-- Settles O54: when the port changes, what HOST never writes, and a valid response taken first. -/
theorem hostPresentsWhenFree : Obligations.HostPresentsWhenFree := by
  unfold Obligations.HostPresentsWhenFree
  intro s
  obtain ⟨hcr, hbuf, heng, hwire, hdev, _, hpar, hseq⟩ := hostStep_block s
  refine ⟨fun hport => ?_, hcr, hbuf, heng, hwire, hdev, hpar, hseq, fun hresp hrun => hostStep_takes hrun hresp⟩
  obtain ⟨hmay, hawait⟩ := (hostStep_port_cases s).resolve_left hport
  obtain ⟨hbusy, hfatal, hfree, _⟩ := (mayPresent_iff s).1 hmay
  exact ⟨hbusy, hfatal, hfree, hawait⟩

section
variable {s : State} (hrun : s.host.halted = false) (hfree : s.host.awaiting = false) (hresp : s.seq.respValid = false)
include hrun hfree hresp

/-- HOST, awaiting nothing, does its next act that is no command (R250). -/
theorem hostStep_expect {v : Byte} {rest : List HostAct} (htodo : s.host.todo = .expect v :: rest) :
    hostStep s =
      if s.host.lastResp = v then { s with host.todo := rest } else { s with host.halted := true } := by
  simp [hostStep, hostEnabled, hostAct, htodo, hrun, hfree, hresp]

theorem hostStep_setOwner {o : Owner} {rest : List HostAct} (htodo : s.host.todo = .setOwner o :: rest) :
    hostStep s = { s with host.owner := o, host.todo := rest } := by
  simp [hostStep, hostEnabled, hostAct, htodo, hrun, hfree, hresp]

theorem hostStep_setLayer {l : LayerState} {rest : List HostAct} (htodo : s.host.todo = .setLayer l :: rest) :
    hostStep s = { s with host.layer := l, host.todo := rest } := by
  simp [hostStep, hostEnabled, hostAct, htodo, hrun, hfree, hresp]

end

/-- Settles O55: HOST's act compares the byte, and a halted HOST has no step. -/
theorem identityMismatchHaltsHost : Obligations.IdentityMismatchHaltsHost := by
  unfold Obligations.IdentityMismatchHaltsHost
  intro s v rest htodo hrun hfree hresp
  have hact := hostStep_expect hrun hfree hresp htodo
  refine ⟨fun heq => hact.trans (if_pos heq), fun hne => ?_⟩
  have hhalt : hostStep s = { s with host.halted := true } := hact.trans (if_neg hne)
  exact ⟨hhalt, by rw [hhalt]; exact hostStep_halted rfl⟩

/-! ### The programs of the PMIC Configuration Layer -/

theorem wordsOf_append (l l' : List HostAct) : wordsOf (l ++ l') = wordsOf l ++ wordsOf l' := by
  induction l with
  | nil => rfl
  | cons act l ih => cases act <;> simp [wordsOf, ih]

theorem wordsOf_configs (p : Params) (ops : List ConfigOp) :
    wordsOf (ops.flatMap fun op => expand p (.config op)) = ops.map fun op => encode (configCommand p op) := by
  induction ops with
  | nil => rfl
  | cons op ops ih => rw [List.flatMap_cons, wordsOf_append, ih]; rfl

theorem wordsOf_new (p : Params) : wordsOf (expand p .new) = encode (.enable p.pinSclFixed p.pinSdaFixed true) ::
    (if p.idCheck then [encode (.regRead p.pmicAddr p.regIdMfg), encode (.regRead p.pmicAddr p.regIdRev)] else []) := by
  rw [expand, identityCheck]
  cases p.idCheck <;> rfl

/-- The words of a session: `new`'s, one for each configuration operation, and DISABLE (R263). -/
theorem wordsOf_session (p : Params) (ops : List ConfigOp) :
    wordsOf (session p ops) =
      wordsOf (expand p .new) ++ (ops.map fun op => encode (configCommand p op)) ++ [encode .disable] := by
  rw [session, wordsOf_append, wordsOf_append, wordsOf_configs]
  rfl

/-- The commands of the bring-up session with the identity check (R264). -/
def bringUpCommands (p : Params) : List Instr :=
  [.enable p.pinSclFixed p.pinSdaFixed true, .regRead p.pmicAddr p.regIdMfg, .regRead p.pmicAddr p.regIdRev] ++
    bringUp.map (configCommand p) ++ [.disable]

/-- The bring-up session presents the words of these commands, in the document's order (R264). -/
theorem wordsOf_bringUp {p : Params} (hid : p.idCheck = true) :
    wordsOf (session p bringUp) = (bringUpCommands p).map encode := by
  rw [wordsOf_session, wordsOf_new, hid]
  rfl

theorem opFields_bringUp {p : Params} (hid : p.idCheck = true) :
    (wordsOf (session p bringUp)).map opField = (bringUpCommands p).map Instr.opcode := by
  rw [wordsOf_bringUp hid, List.map_map]
  exact List.map_congr_left fun i _ => opField_encode i

/-- The masked writes of the bring-up session go to the registers of the map's entries, in the map's order (R264). -/
theorem registers_bringUp {p : Params} (hid : p.idCheck = true) :
    ((wordsOf (session p bringUp)).filter fun w => opField w == 0x05).map bField = p.rmap.entries.map RMapEntry.reg := by
  have hmasked : (bringUpCommands p).filter (fun i => i.opcode == 0x05) = bringUp.map (configCommand p) := rfl
  simp only [wordsOf_bringUp hid, List.filter_map, Function.comp_def, opField_encode, hmasked]
  simp [bringUp, configCommand, fieldWrite, bitWrite, encode, RMap.entries]

/-- Settles O57: the expansions and the words by definition, HOST's moves by its step, and the session's words, their
opcodes and the registers of its masked writes. -/
theorem bringUpSession : Obligations.BringUpSession := by
  unfold Obligations.BringUpSession
  intro p
  refine ⟨fun op => by cases op <;> rfl, rfl, rfl, wordsOf_new p, fun op => rfl, fun s o l rest hrun hfree hresp => ?_,
    fun hid => ⟨wordsOf_bringUp hid, ?_, fun hdistinct => ?_⟩⟩
  · exact ⟨hostStep_setOwner hrun hfree hresp, hostStep_setLayer hrun hfree hresp⟩
  · exact opFields_bringUp hid
  · rw [registers_bringUp hid]
    exact of_decide_eq_true hdistinct

/-! ### The register space -/

/-- No register has an index from 0x10 on (R27). -/
theorem regAtIndex_unimplemented {i : Byte} (h : 0x10 ≤ i.toNat) : regAtIndex i = none := by
  rw [regAtIndex, List.find?_eq_none]
  intro r _ heq
  rw [← eq_of_beq heq] at h
  cases r <;> exact absurd h (by decide)

/-- Settles O58: the register writes by definition, and no register at a refused index. -/
theorem registerSpaceRules : Obligations.RegisterSpaceRules := by
  unfold Obligations.RegisterSpaceRules
  intro s
  refine ⟨rfl, rfl, rfl, rfl, rfl, rfl, rfl, rfl, fun v => ⟨rfl, rfl⟩, fun i v hi => ?_⟩
  rw [readIndex, writeIndex, regAtIndex_unimplemented hi]
  exact ⟨rfl, rfl⟩

end Sys2Proof.Machine
end

section
/-! PROOF. The engine's frames: what any step of it leaves, what it puts on the wire, when it moves the simulated store, and
the step in which the device aborts (R193, R196, R200). -/

namespace Sys2Proof.Machine

/-- Settles O32: nothing changes, or an enabled step writes BUF only where it stores a received byte. -/
theorem engineFrame : Obligations.EngineFrame := by
  unfold Obligations.EngineFrame
  intro s t h
  rcases engStep_frame h with rfl | ⟨_, ⟨hseq, hport, hhost, henv, hpar⟩, hregs, _, hbuf, _⟩
  · simp
  refine ⟨hseq, hport, hhost, henv, hpar, hregs, fun a ha => ?_⟩
  rcases hbuf with ⟨hkept, _⟩ | ⟨hg, _, _, v, hstored, _⟩
  · rw [bufByte, hkept, bufByte]
  · have hother : a ≠ s.cr.rxdPtr.toNat + s.cr.rxdAmount.toNat := ha.resolve_left (not_not.2 hg)
    rw [bufByte, hstored, memRead_memWrite_other _ _ _ a v hother, bufByte]

/-! ### The wire and the device -/

/-- The engine sends the second payload byte to the simulated device (R80, R193). -/
abbrev sendsSecondByte (s : State) : Prop :=
  s.cr.enable = true ∧ s.eng = .txData ∧ s.cr.txdAmount = 1 ∧ s.cr.txdAmount.toNat < s.cr.txdMaxcnt.toNat ∧
    s.dev.kind = .simdev

/-- What a step of the engine leaves of the bus: the symbols on the wire, and the simulated store but for the byte at the
pointer where it sends the second payload byte (R39, R80). -/
abbrev BusFrame (s t : State) : Prop :=
  (∃ x, t.wire = s.wire ++ x) ∧
    (t.dev.simStore = s.dev.simStore ∨ sendsSecondByte s ∧ ∃ b, t.dev = simStoreByte b (countQuestion s.dev))

theorem busFrame_silent {s t : State} (hwire : t.wire = s.wire) (hdev : t.dev.simStore = s.dev.simStore) :
    BusFrame s t := ⟨⟨[], by simp [hwire]⟩, .inl hdev⟩

theorem busFrame_txAddr {s t : State} (h : engTxAddr s = .next t) : BusFrame s t := by
  rw [engTxAddr_eq] at h
  cases h
  split <;> exact ⟨⟨_, rfl⟩, .inl rfl⟩

theorem busFrame_rxAddr {s t : State} (h : engRxAddr s = .next t) : BusFrame s t := by
  rw [engRxAddr_eq] at h
  cases h
  split <;> exact ⟨⟨_, rfl⟩, .inl rfl⟩

theorem busFrame_lastTx {s t : State} (h : engLastTx s = .next t) : BusFrame s t := by
  rcases engLastTx_cases s with ⟨_, _, e⟩ | ⟨_, _, e⟩ | ⟨_, _, e⟩ | ⟨_, _, e⟩ <;> rw [e] at h <;> cases h <;>
    exact busFrame_silent rfl rfl

theorem busFrame_txData {s t : State} (he : s.cr.enable = true) (hg : s.eng = .txData)
    (hlt : s.cr.txdAmount.toNat < s.cr.txdMaxcnt.toNat) (h : engTxData s = .next t) : BusFrame s t := by
  obtain ⟨b, d, _, hd, ht⟩ := engTxData_next h
  have hstore : d.simStore = s.dev.simStore ∨ sendsSecondByte s ∧ ∃ b, d = simStoreByte b (countQuestion s.dev) := by
    rcases hd with rfl | ⟨_, _, rfl⟩ | ⟨hi, hk, rfl⟩
    · exact .inl rfl
    · exact .inl rfl
    · exact .inr ⟨⟨he, hg, BitVec.eq_of_toNat_eq hi, hlt, hk⟩, b, rfl⟩
  rcases ht with rfl | rfl | rfl
  · exact ⟨⟨_, rfl⟩, hstore⟩
  · exact ⟨⟨_, rfl⟩, hstore⟩
  · exact ⟨⟨[], (List.append_nil _).symm⟩, hstore⟩

theorem busFrame_rxData {s t : State} (h : engRxData s = .next t) : BusFrame s t := by
  rcases engRxData_next h with ⟨v, _, rfl⟩ | rfl
  · exact ⟨⟨_, rfl⟩, .inl rfl⟩
  · exact busFrame_silent rfl rfl

theorem engStep_bus {s t : State} (h : engStep s = .next t) : BusFrame s t := by
  rcases engStep_cases s with e | ⟨_, _, e⟩ | ⟨_, _, _, e⟩ | ⟨he, hg, hlt, e⟩ | ⟨_, _, e⟩ | ⟨_, _, _, e⟩ |
    ⟨_, _, _, e⟩ | ⟨_, _, e⟩ <;> rw [e] at h
  · cases h; exact busFrame_silent rfl rfl
  · exact busFrame_txAddr h
  · exact busFrame_lastTx h
  · exact busFrame_txData he hg hlt h
  · exact busFrame_rxAddr h
  · cases h; exact busFrame_silent rfl rfl
  · exact busFrame_rxData h
  · cases h; exact ⟨⟨_, rfl⟩, .inl rfl⟩

/-! ### An ABORT answer -/

/-- An aborted step of the engine, in each of the four phases that ask the device (R200). -/
theorem engStep_abort {s t : State} (hen : s.cr.enable = true) (h : engStep s = .next t)
    (habort : (s.eng = .txAddr ∧ (devAddrAck 0#1 s).1 = .abort) ∨
      (s.eng = .rxAddr ∧ (devAddrAck 1#1 s).1 = .abort) ∨
      (s.eng = .txData ∧ s.cr.txdAmount.toNat < s.cr.txdMaxcnt.toNat ∧ ∃ b q,
        bufByte s (s.cr.txdPtr.toNat + s.cr.txdAmount.toNat) = some b ∧
          devWriteByte s.cr.txdAmount.toNat b s = .next (.abort, q)) ∨
      (s.eng = .rxData ∧ s.cr.rxdAmount.toNat < s.cr.rxdMaxcnt.toNat ∧ ∃ q,
        devReadByte s.cr.rxdAmount.toNat s = .next (.abort, q))) :
    ∃ w d, t = { s with wire := w, dev := d, eng := .stopping } := by
  obtain ⟨hg, hk⟩ | ⟨hg, hk⟩ | ⟨hg, hlt, b, q, hb, hq⟩ | ⟨hg, hlt, q, hq⟩ := habort
  · rw [engStep_txAddr s hen hg, engTxAddr_eq, devAddrAck_emit, hk] at h
    cases h; exact ⟨_, _, rfl⟩
  · rw [engStep_rxAddr s hen hg, engRxAddr_eq, devAddrAck_emit, hk] at h
    cases h; exact ⟨_, _, rfl⟩
  · rw [engStep_txData s hen hg hlt] at h
    obtain ⟨_, _, hread, _⟩ := engTxData_next h
    have hread' := bufRead_next.2 ⟨(bufRead_next.1 hread).1, hb⟩
    obtain ⟨d, rfl⟩ := devWriteByte_frame hq
    cases (engTxData_answer hread' hq).symm.trans h
    exact ⟨_, d, rfl⟩
  · obtain rfl : q = { s with dev := countQuestion s.dev } := devReadByte_next hq
    cases (engStep_rxData s hen hg hlt).symm.trans h |>.symm.trans (engRxData_abort hq)
    exact ⟨_, _, rfl⟩

/-- Settles O35: an aborted step leaves the registers and BUF, and E-STOP follows. -/
theorem abortEndsTransaction : Obligations.AbortEndsTransaction := by
  unfold Obligations.AbortEndsTransaction
  intro s t hen h habort
  obtain ⟨w, d, rfl⟩ := engStep_abort hen h habort
  exact ⟨rfl, rfl, rfl, engStep_stopping _ hen rfl⟩

end Sys2Proof.Machine
end

section
/-! PROOF. The whole machine's frames: which agent's step changes the wire, the simulated store, the control registers, the
fault record and the transaction in progress (R11, R46, R134, R290). -/

namespace Sys2Proof.Machine

/-! ### What no agent's step changes -/

theorem agentStep_env_par {a : Agent} {s t : State} (h : agentStep a s = .next t) : t.env = s.env ∧ t.par = s.par := by
  cases a with
  | host =>
    cases h
    obtain ⟨_, _, _, _, _, henv, hpar, _⟩ := hostStep_block s
    exact ⟨henv, hpar⟩
  | seq =>
    obtain ⟨⟨_, _, henv, hpar, _⟩, _⟩ := seqStep_frame h
    exact ⟨henv, hpar⟩
  | eng =>
    rcases engStep_frame h with rfl | ⟨_, ⟨_, _, _, henv, hpar⟩, _⟩
    · exact ⟨rfl, rfl⟩
    · exact ⟨henv, hpar⟩

/-- Only the engine's step moves the wire or the device. -/
theorem agentStep_bus {a : Agent} {s t : State} (ha : a ≠ .eng) (h : agentStep a s = .next t) :
    t.wire = s.wire ∧ t.dev = s.dev := by
  cases a with
  | host =>
    cases h
    obtain ⟨_, _, _, hwire, hdev, _⟩ := hostStep_block s
    exact ⟨hwire, hdev⟩
  | seq =>
    obtain ⟨⟨hdev, _, _, _, hwire⟩, _⟩ := seqStep_frame h
    exact ⟨hwire, hdev⟩
  | eng => exact absurd rfl ha

/-- Settles O53: the wire moves only in the engine's step, which appends to it, and an engine without an enabled step
changes nothing. -/
theorem wireGrowsByEngineOnly : Obligations.WireGrowsByEngineOnly := by
  unfold Obligations.WireGrowsByEngineOnly
  intro s t hr h
  rcases step_noReset_cases hr with ⟨e, a, hstep, hmover, _⟩ | ⟨hstep, _⟩ <;> rw [hstep] at h
  · refine ⟨(agentStep_env_par h).2, ?_⟩
    by_cases ha : a = .eng
    · subst ha
      refine ⟨(engStep_bus h).1, fun hne => ⟨hmover, Bool.of_not_eq_false fun hdis => hne ?_⟩⟩
      cases (engStep_disabled { s with env := e } hdis).symm.trans h
      rfl
    · have hwire : t.wire = s.wire := (agentStep_bus ha h).1
      exact ⟨⟨[], by simp [hwire]⟩, fun hne => absurd hwire hne⟩
  · cases h
    exact ⟨rfl, ⟨[], by simp⟩, fun hne => absurd rfl hne⟩

/-- Settles O37: the store moves only in the engine's step, where it sends the second payload byte, at the pointer. -/
theorem simStoreFrame : Obligations.SimStoreFrame := by
  unfold Obligations.SimStoreFrame
  intro s t hr h
  have hsame (hstore : t.dev.simStore = s.dev.simStore) (r : Byte) : storeByte t.dev r = storeByte s.dev r := by
    rw [storeByte, hstore, storeByte]
  rcases step_noReset_cases hr with ⟨e, a, hstep, hmover, _⟩ | ⟨hstep, _⟩ <;> rw [hstep] at h
  · by_cases ha : a = .eng
    · subst ha
      obtain ⟨_, hstore | ⟨hsends, b, hdev⟩⟩ := engStep_bus h
      · exact ⟨.inl hstore, fun r _ => hsame hstore r⟩
      · refine ⟨.inr ⟨hmover, hsends⟩, fun r hne => ?_⟩
        rw [hdev]
        exact storeByte_simStoreByte_other b (countQuestion s.dev) hne
    · have hdev : t.dev = s.dev := (agentStep_bus ha h).2
      exact ⟨.inl (by rw [hdev]), fun r _ => by rw [hdev]⟩
  · cases h; exact ⟨.inl rfl, fun r _ => rfl⟩

/-! ### The control registers -/

/-- The four registers that ENABLE and DISABLE write (R134). -/
abbrev SameControl (s t : State) : Prop :=
  t.cr.pselScl = s.cr.pselScl ∧ t.cr.pselSda = s.cr.pselSda ∧ t.cr.frequency = s.cr.frequency ∧
    t.cr.enable = s.cr.enable

/-- SETUP writes the descriptor, SHORTS and BUF, and moves on to TRIGGER (R154, R155). -/
theorem seqStep_setup_next {s t : State} (hp : s.seq.pc = .setup) (h : seqStep s = .next t) :
    ∃ buf shorts txdMaxcnt rxdPtr rxdMaxcnt, t = { s with
      buf := buf, cr.address := s.seq.dev, cr.shorts := shorts, cr.txdPtr := 0, cr.txdMaxcnt := txdMaxcnt
      cr.rxdPtr := rxdPtr, cr.rxdMaxcnt := rxdMaxcnt, seq.pc := .trigger } := by
  cases hx : s.seq.xfer with
  | rd =>
    rw [seqStep_setupRd s hp hx] at h
    cases (setupRd_eq s (bufSize_of_setupRd h)).symm.trans h
    exact ⟨_, _, _, _, _, rfl⟩
  | wr =>
    rw [seqStep_setupWr s hp hx] at h
    obtain ⟨hsize, w, hw⟩ := bufSize_wdata_of_setupWr h
    cases (setupWr_eq s w hsize hw).symm.trans h
    exact ⟨_, _, _, _, _, rfl⟩

/-- CLEAR writes the event flags, and moves on to COMPLETE (R157, R158). -/
theorem seqStep_clear_next {s t : State} (hp : s.seq.pc = .clear) (h : seqStep s = .next t) :
    ∃ rxDone, t = { s with
      cr.eventsTxDone := false, cr.eventsRxDone := rxDone, cr.eventsStopped := false, seq.pc := .complete } := by
  cases hx : s.seq.xfer with
  | rd =>
    cases ((seqStep_clearRd s hp hx).trans (clearRd_eq s)).symm.trans h
    exact ⟨_, rfl⟩
  | wr =>
    cases ((seqStep_clearWr s hp hx).trans (clearWr_eq s)).symm.trans h
    exact ⟨_, rfl⟩

/-- CHECK passes on to CLEAR or raises (R232, R233). -/
theorem seqStep_check_next {s t : State} (hp : s.seq.pc = .check) (h : seqStep s = .next t) :
    t = setPc .clear s ∨ ∃ c, c ≠ .none ∧ t = raiseFatal c s := by
  cases hx : s.seq.xfer with
  | rd =>
    rw [seqStep_checkRd s hp hx] at h
    rcases checkRd_cases s with ⟨_, e⟩ | ⟨_, _, e⟩ <;> cases e.symm.trans h
    · exact .inr ⟨.countMismatchRd, nofun, rfl⟩
    · exact .inl rfl
  | wr =>
    rw [seqStep_checkWr s hp hx] at h
    rcases checkWr_cases s with ⟨_, e⟩ | ⟨_, e⟩ <;> cases e.symm.trans h
    · exact .inr ⟨.countMismatchWr, nofun, rfl⟩
    · exact .inl rfl

/-- POLL passes on to CHECK where it reads "stopped", and otherwise stays or, by the limit, raises (R231, R234). -/
theorem seqStep_poll_next {s t : State} (hp : s.seq.pc = .poll) (h : seqStep s = .next t) :
    (s.cr.eventsStopped = true ∧ t = setPc .check s) ∨ (∃ n, t = { s with seq.pollCnt := n }) ∨
      (s.par.pollLimit ≠ none ∧ t = raiseFatal .pollTimeout s) := by
  rw [seqStep_poll s hp] at h
  rcases pollStep_cases s with ⟨hstopped, e⟩ | ⟨_, _, e⟩ | ⟨n, _, hlimit, e⟩ <;> cases e.symm.trans h
  · exact .inl ⟨hstopped, rfl⟩
  · exact .inr (.inl ⟨_, setPc_same s hp⟩)
  · rcases pollLimited_cases n s with ⟨_, e⟩ | ⟨_, e⟩ <;> rw [e]
    · exact .inr (.inr ⟨by simp [hlimit], rfl⟩)
    · exact .inr (.inl ⟨_, setPc_same { s with seq.pollCnt := s.seq.pollCnt + 1 } hp⟩)

/-- TRIGGER starts the engine or, in an inactive peripheral, does not (R156, R191). -/
theorem seqStep_trigger_next {s t : State} (hp : s.seq.pc = .trigger) (h : seqStep s = .next t) :
    (∃ n, t = { s with cr.txdAmount := 0, cr.rxdAmount := 0, eng := .txAddr, seq.pc := .poll, seq.pollCnt := n }) ∨
      ∃ n, t = { s with seq.pc := .poll, seq.pollCnt := n } := by
  rw [seqStep_trigger s hp] at h
  rcases triggerStep_next h with ⟨_, _, rfl⟩ | ⟨_, rfl⟩ <;> rw [zeroPollCnt_eq]
  · exact .inl ⟨_, rfl⟩
  · exact .inr ⟨_, rfl⟩

/-- COMPLETE ends the command or begins the write half (R159, R160). -/
theorem seqStep_complete_next {s t : State} (hp : s.seq.pc = .complete) (h : seqStep s = .next t) :
    (∃ v, t = endCommand v { s with seq.tmp := v } ∨ t = { s with seq.tmp := v, seq.xfer := .wr, seq.pc := .setup }) ∨
      t = endCommand 0x00 s := by
  cases hx : s.seq.xfer with
  | rd =>
    rw [seqStep_completeRd s hp hx] at h
    obtain ⟨v, _, ⟨_, rfl⟩ | ⟨_, rfl⟩⟩ := completeRd_next h
    · exact .inl ⟨v, .inl rfl⟩
    · exact .inl ⟨v, .inr rfl⟩
  | wr =>
    cases (seqStep_completeWr s hp hx).symm.trans h
    exact .inr rfl

/-- ACCEPT raises, or runs the command: a control command, which ends in it, or a transfer, which latches (R130). -/
theorem seqStep_accept_next {s t : State} {w : CmdWord} (hp : s.seq.pc = .idle) (hw : s.port = some w)
    (h : seqStep s = .next t) :
    t = raiseFatal .illegalCommand (takePort s) ∨
    (∃ i scl sda fast enable, decode s.par.pinCount w = .ok i ∧ (i = .disable ∨ ∃ a b fast, i = .enable a b fast) ∧
      t = endCommand 0x00 { takePort s with
        cr.pselScl := scl, cr.pselSda := sda, cr.frequency := fast, cr.enable := enable }) ∨
    ∃ op dev reg mask data xfer, t = latchTransfer op dev reg mask data xfer (takePort s) := by
  cases hd : decode s.par.pinCount w with
  | error e => cases (seqStep_illegal hp hw hd).symm.trans h; exact .inl rfl
  | ok i =>
    rw [seqStep_legal hp hw hd] at h
    rcases exec_idle_cases i (takePort s) hp with ⟨_, _, _, e⟩ | ⟨a, b, fast, hi, _, e⟩ | ⟨hi, e⟩ |
      ⟨_, _, _, _, _, _, _, e⟩ <;> cases e.symm.trans h
    · exact .inr (.inl ⟨i, _, _, _, _, rfl, .inr ⟨a, b, fast, hi⟩, rfl⟩)
    · exact .inr (.inl ⟨i, _, _, _, _, rfl, .inl hi, rfl⟩)
    · exact .inr (.inr ⟨_, _, _, _, _, _, rfl⟩)

/-- A step of the sequencer leaves the control registers, or accepts ENABLE or DISABLE (R134). -/
theorem seqStep_control {s t : State} (h : seqStep s = .next t) :
    SameControl s t ∨ (s.seq.pc = .idle ∧ t.port = none ∧
      ∃ w i, s.port = some w ∧ decode s.par.pinCount w = .ok i ∧ (i = .disable ∨ ∃ a b fast, i = .enable a b fast)) := by
  cases hp : s.seq.pc with
  | idle =>
    cases hw : s.port with
    | none => cases (seqStep_idle_none s hp hw).symm.trans h; exact .inl ⟨rfl, rfl, rfl, rfl⟩
    | some w =>
      obtain rfl | ⟨i, _, _, _, _, hd, hi, rfl⟩ | ⟨_, _, _, _, _, _, rfl⟩ := seqStep_accept_next hp hw h
      · exact .inl ⟨rfl, rfl, rfl, rfl⟩
      · exact .inr ⟨rfl, rfl, w, i, rfl, hd, hi⟩
      · exact .inl ⟨rfl, rfl, rfl, rfl⟩
  | setup => obtain ⟨_, _, _, _, _, rfl⟩ := seqStep_setup_next hp h; exact .inl ⟨rfl, rfl, rfl, rfl⟩
  | trigger => obtain ⟨_, rfl⟩ | ⟨_, rfl⟩ := seqStep_trigger_next hp h <;> exact .inl ⟨rfl, rfl, rfl, rfl⟩
  | poll => obtain ⟨_, rfl⟩ | ⟨_, rfl⟩ | ⟨_, rfl⟩ := seqStep_poll_next hp h <;> exact .inl ⟨rfl, rfl, rfl, rfl⟩
  | check => obtain rfl | ⟨_, _, rfl⟩ := seqStep_check_next hp h <;> exact .inl ⟨rfl, rfl, rfl, rfl⟩
  | clear => obtain ⟨_, rfl⟩ := seqStep_clear_next hp h; exact .inl ⟨rfl, rfl, rfl, rfl⟩
  | complete => obtain ⟨_, rfl | rfl⟩ | rfl := seqStep_complete_next hp h <;> exact .inl ⟨rfl, rfl, rfl, rfl⟩
  | fatal => cases (seqStep_fatal s hp).symm.trans h; exact .inl ⟨rfl, rfl, rfl, rfl⟩

theorem agentStep_control {a : Agent} {s t : State} (ha : a ≠ .seq) (h : agentStep a s = .next t) : SameControl s t := by
  cases a with
  | host =>
    cases h
    obtain ⟨hcr, _⟩ := hostStep_block s
    exact ⟨by rw [hcr], by rw [hcr], by rw [hcr], by rw [hcr]⟩
  | seq => exact absurd rfl ha
  | eng =>
    rcases engStep_frame h with rfl | ⟨_, _, ⟨_, hen, hscl, hsda, hfreq, _⟩, _⟩
    · exact ⟨rfl, rfl, rfl, rfl⟩
    · exact ⟨hscl, hsda, hfreq, hen⟩

/-- Settles O52: HOST and the engine never write the four registers, and the sequencer where it accepts a control command. -/
theorem controlRegistersFrame : Obligations.ControlRegistersFrame := by
  unfold Obligations.ControlRegistersFrame
  intro s t hr h
  rcases step_noReset_cases hr with ⟨e, a, hstep, hmover, _⟩ | ⟨hstep, _⟩ <;> rw [hstep] at h
  · by_cases ha : a = .seq
    · subst ha
      exact (seqStep_control h).imp id fun haccept => ⟨hmover, haccept⟩
    · exact .inl (agentStep_control (s := { s with env := e }) ha h)
  · cases h; exact .inl ⟨rfl, rfl, rfl, rfl⟩

/-! ### The fault record -/

/-- A step of the sequencer leaves FAULT, or is the one fatal entry, after ACCEPT has taken the word at IDLE (R290). -/
theorem seqStep_fault {s t : State} (h : seqStep s = .next t) :
    t.seq.fault = s.seq.fault ∨
      ∃ c, c ≠ .none ∧ (t = raiseFatal c s ∨ s.seq.pc = .idle ∧ t = raiseFatal c (takePort s)) := by
  cases hp : s.seq.pc with
  | idle =>
    cases hw : s.port with
    | none => cases (seqStep_idle_none s hp hw).symm.trans h; exact .inl rfl
    | some w =>
      obtain rfl | ⟨_, _, _, _, _, _, _, rfl⟩ | ⟨_, _, _, _, _, _, rfl⟩ := seqStep_accept_next hp hw h
      · exact .inr ⟨.illegalCommand, nofun, .inr ⟨rfl, rfl⟩⟩
      · exact .inl rfl
      · exact .inl rfl
  | setup => obtain ⟨_, _, _, _, _, rfl⟩ := seqStep_setup_next hp h; exact .inl rfl
  | trigger => obtain ⟨_, rfl⟩ | ⟨_, rfl⟩ := seqStep_trigger_next hp h <;> exact .inl rfl
  | poll =>
    obtain ⟨_, rfl⟩ | ⟨_, rfl⟩ | ⟨_, rfl⟩ := seqStep_poll_next hp h
    · exact .inl rfl
    · exact .inl rfl
    · exact .inr ⟨.pollTimeout, nofun, .inl rfl⟩
  | check =>
    obtain rfl | ⟨c, hc, rfl⟩ := seqStep_check_next hp h
    · exact .inl rfl
    · exact .inr ⟨c, hc, .inl rfl⟩
  | clear => obtain ⟨_, rfl⟩ := seqStep_clear_next hp h; exact .inl rfl
  | complete => obtain ⟨_, rfl | rfl⟩ | rfl := seqStep_complete_next hp h <;> exact .inl rfl
  | fatal => cases (seqStep_fatal s hp).symm.trans h; exact .inl rfl

/-- Settles O38: the step that sets FAULT is the fatal entry, which writes the record and `pc` only. -/
theorem fatalEntryFrame : Obligations.FatalEntryFrame := by
  unfold Obligations.FatalEntryFrame
  intro s t h hclear hset
  obtain hsame | ⟨c, hc, rfl | ⟨hp, rfl⟩⟩ := seqStep_fault h
  · simp [hsame, hclear] at hset
  · exact ⟨rfl, hc, rfl, rfl, rfl, .inl rfl⟩
  · exact ⟨rfl, hc, rfl, rfl, rfl, .inr ⟨hp, rfl⟩⟩

/-! ### One transaction at a time -/

/-- An agent's step leaves an idle engine idle, but for the sequencer's at TRIGGER (R46, R191). -/
theorem agentStep_engine_starts {a : Agent} {s t : State} (hidle : s.eng = .idle) (h : agentStep a s = .next t)
    (hleft : t.eng ≠ .idle) : s.seq.pc = .trigger ∧ t.seq.pc = .poll := by
  obtain ⟨_, ⟨heng, _⟩ | ⟨hp, _⟩, _⟩ := agentStep_rest (engEnabled_of_idle hidle) h
  · exact absurd (heng.trans hidle) hleft
  refine ⟨hp, ?_⟩
  cases a with
  | host =>
    cases h
    obtain ⟨_, _, heng, _⟩ := hostStep_block s
    exact absurd (heng.trans hidle) hleft
  | seq => exact pc_after_trigger h hp
  | eng =>
    cases (engStep_disabled s (engEnabled_of_idle hidle)).symm.trans h
    exact absurd hidle hleft

/-- An agent's step leaves POLL only where "stopped" is read, or by the poll limit (R231, R234). -/
theorem agentStep_leaves_poll {a : Agent} {s t : State} (hp : s.seq.pc = .poll) (h : agentStep a s = .next t)
    (hleft : t.seq.pc ≠ .poll) :
    (s.cr.eventsStopped = true ∧ t = setPc .check s) ∨ (s.par.pollLimit ≠ none ∧ t = raiseFatal .pollTimeout s) := by
  cases a with
  | host =>
    cases h
    obtain ⟨v, p, u, e⟩ := hostStep_eq s
    rw [e] at hleft
    exact absurd hp hleft
  | seq =>
    obtain hstopped | ⟨n, rfl⟩ | hlimit := seqStep_poll_next hp h
    · exact .inl hstopped
    · exact absurd hp hleft
    · exact .inr hlimit
  | eng => exact absurd ((congrArg SeqState.pc (engStep_seq h)).trans hp) hleft

/-- Settles O50: the engine is started by TRIGGER, and by the invariant it is back in IDLE where POLL reads "stopped". -/
theorem oneTransactionAtATime : Obligations.OneTransactionAtATime := by
  unfold Obligations.OneTransactionAtATime
  intro s t hi h hr
  rcases step_noReset_cases hr with ⟨e, a, hstep, _⟩ | ⟨hstep, _⟩ <;> rw [hstep] at h
  · refine ⟨fun hidle => agentStep_engine_starts (s := { s with env := e }) hidle h, fun hp hleft => ?_⟩
    obtain ⟨hstopped, rfl⟩ | ⟨hlimit, rfl⟩ := agentStep_leaves_poll (s := { s with env := e }) hp h hleft
    · have hidle := hi.idle_of_stopped hp hstopped
      exact .inl ⟨hidle, hidle⟩
    · exact .inr ⟨rfl, rfl, hlimit⟩
  · cases h; exact ⟨fun hidle hleft => absurd hidle hleft, fun hp hleft => absurd hp hleft⟩

end Sys2Proof.Machine
end

section
/-! PROOF. The hang (R287, R323): no agent moves the block, and the two ways into it, an inactive peripheral (R328) and a
device that is not there (R161). -/

namespace Sys2Proof.Machine

/-! ### A hang goes on -/

theorem engEnabled_of_hung {s : State} (h : hung s) : engEnabled s = false := by
  obtain ⟨_, _, hg | hg | hen⟩ := h
  · exact engEnabled_of_stalled hg
  · exact engEnabled_of_idle hg
  · exact engEnabled_of_inactive hen

/-- In a hang only HOST moves: the sequencer polls and the engine has no step (R287). -/
theorem agentStep_of_hung {s : State} (a : Agent) (h : hung s) (hlimit : s.par.pollLimit = none) :
    ∃ v p u, agentStep a s = .next { s with seq.respValid := v, port := p, host := u } := by
  have ⟨hp, hrun, _⟩ := h
  cases a with
  | host =>
    obtain ⟨v, p, u, e⟩ := hostStep_eq s
    exact ⟨v, p, u, congrArg Host.Outcome.next e⟩
  | seq =>
    have hpoll := (seqStep_poll s hp).trans (pollStep_unlimited hrun hlimit)
    rw [setPc_same s hp] at hpoll
    exact ⟨_, _, _, hpoll⟩
  | eng => exact ⟨_, _, _, engStep_disabled s (engEnabled_of_hung h)⟩

theorem step_of_hung {s : State} (h : hung s) (hlimit : s.par.pollLimit = none) (hr : noReset s) :
    ∃ e v p u, step s = .next { s with env := e, seq.respValid := v, port := p, host := u } ∧ Turn.reset ∉ e.sched := by
  rcases step_noReset_cases hr with ⟨e, a, hstep, _, hr'⟩ | ⟨hstep, _⟩
  · obtain ⟨v, p, u, ha⟩ := agentStep_of_hung (s := { s with env := e }) a h hlimit
    exact ⟨e, v, p, u, hstep.trans ha, hr'⟩
  · exact ⟨s.env, _, _, _, hstep, hr⟩

/-- Any number of steps of a hung machine move HOST and the schedule only. -/
theorem run_of_hung (n : Nat) {s : State} (h : hung s) (hlimit : s.par.pollLimit = none) (hr : noReset s) :
    ∃ e v p u, Sys2Proof.core.run n s = .next { s with env := e, seq.respValid := v, port := p, host := u } := by
  induction n generalizing s with
  | zero => exact ⟨_, _, _, _, rfl⟩
  | succ n ih =>
    obtain ⟨e, v, p, u, hstep, hr'⟩ := step_of_hung h hlimit hr
    obtain ⟨e', v', p', u', hrun⟩ := ih (s := { s with env := e, seq.respValid := v, port := p, host := u }) h hlimit hr'
    exact ⟨e', v', p', u', (core_run_next hstep).trans hrun⟩

/-- Settles O41, by induction on the number of steps: HOST's moves leave the hang as it is. -/
theorem hangNeverEnds : Obligations.HangNeverEnds := by
  unfold Obligations.HangNeverEnds
  intro n s h hlimit hr
  obtain ⟨e, v, p, u, hrun⟩ := run_of_hung n h hlimit hr
  have hp : s.seq.pc = .poll := h.1
  exact ⟨_, hrun, h, rfl, by simp [busy, hp], rfl, rfl⟩

/-! ### Into the hang -/

/-- SETUP answers a next state where the opcode fits and BUF has its three bytes (R154, R155). -/
theorem seqStep_setup_goes {s : State} (hp : s.seq.pc = .setup) (hsize : 3 ≤ s.par.bufSize) (hop : opFits s) :
    ∃ t, seqStep s = .next t := by
  cases hx : s.seq.xfer with
  | rd => exact ⟨_, (seqStep_setupRd s hp hx).trans (setupRd_eq s (by omega))⟩
  | wr =>
    obtain ⟨w, hw⟩ := wdata_of_opFits hop hx
    exact ⟨_, (seqStep_setupWr s hp hx).trans (setupWr_eq s w (by omega) hw)⟩

/-- A transfer command taken at IDLE latches its device address and an opcode that fits (R130). -/
theorem exec_transfer_idle {i : Instr} {dev : DevAddr} {s : State} (hp : s.seq.pc = .idle)
    (hi : (∃ r, i = .regRead dev r) ∨ (∃ r b, i = .regWrite dev r b) ∨ ∃ r m b, i = .regWriteMask dev r m b) :
    ∃ op reg mask data xfer, exec i s = .next (latchTransfer op dev reg mask data xfer s) ∧
      opFits (latchTransfer op dev reg mask data xfer s) := by
  obtain ⟨r, rfl⟩ | ⟨r, b, rfl⟩ | ⟨r, m, b, rfl⟩ := hi
  · exact ⟨_, _, _, _, _, exec_regRead_idle dev r s hp, fun _ => .inl rfl, nofun⟩
  · exact ⟨_, _, _, _, _, exec_regWrite_idle dev r b s hp, nofun, fun _ => .inl rfl⟩
  · exact ⟨_, _, _, _, _, exec_regWriteMask_idle dev r m b s hp, fun _ => .inr rfl, nofun⟩

/-- What ACCEPT of a transfer and the turn of SETUP leave: the descriptor is for the command's device, and the sequencer is
at TRIGGER. -/
theorem transfer_to_trigger {i : Instr} {dev : DevAddr} {s : State} {rest : List Turn} (hi : Inv s) (hp : s.seq.pc = .idle)
    (hcmd : (∃ r, i = .regRead dev r) ∨ (∃ r b, i = .regWrite dev r b) ∨ ∃ r m b, i = .regWriteMask dev r m b)
    (hsched : s.env.sched = .agent .seq :: rest) :
    ∃ t v : State, exec i s = .next t ∧ step t = .next v ∧
      v.seq.pc = .trigger ∧ v.cr.address = dev ∧ v.cr.enable = s.cr.enable ∧ flagsClear v = true ∧ v.eng = .idle ∧
      v.wire = s.wire ∧ v.dev = s.dev ∧ v.seq.fault = false ∧ v.seq.resps = s.seq.resps ∧ v.env.sched = rest := by
  obtain ⟨op, reg, mask, data, xfer, hexec, hop⟩ := exec_transfer_idle hp hcmd
  obtain ⟨hwf, _, ⟨hfatal, _⟩, _, hphase⟩ := hi
  obtain ⟨hflags, hidle⟩ := (phaseCoherent_idle hp).1 hphase
  have hfault : s.seq.fault = false := by simpa [hp] using hfatal
  have hturn := step_turn (latchTransfer op dev reg mask data xfer s) .seq rest hsched
  obtain ⟨v, hv⟩ := seqStep_setup_goes (s := { latchTransfer op dev reg mask data xfer s with env.sched := rest }) rfl
    (Params.wf_bufSize hwf) hop
  obtain ⟨_, _, _, _, _, rfl⟩ := seqStep_setup_next rfl hv
  exact ⟨_, _, hexec, hturn.trans hv, rfl, rfl, rfl, hflags, hidle, rfl, rfl, hfault, rfl, rfl⟩

/-- The turn of TRIGGER, where the peripheral is inactive (R156, R191). -/
theorem step_trigger_inactive {s : State} {rest : List Turn} (hp : s.seq.pc = .trigger) (hen : s.cr.enable = false)
    (hsched : s.env.sched = .agent .seq :: rest) :
    ∃ n, step s = .next { s with env.sched := rest, seq.pc := .poll, seq.pollCnt := n } := by
  have htrigger := (seqStep_trigger { s with env.sched := rest } hp).trans (triggerStep_inactive hen)
  rw [zeroPollCnt_eq] at htrigger
  exact ⟨_, (step_turn s .seq rest hsched).trans htrigger⟩

/-- The turn of TRIGGER, where it starts the engine (R156, R191). -/
theorem step_trigger_starts {s : State} {rest : List Turn} (hp : s.seq.pc = .trigger) (hen : s.cr.enable = true)
    (hidle : s.eng = .idle) (hsched : s.env.sched = .agent .seq :: rest) :
    ∃ n, step s = .next { s with
      env.sched := rest, cr.txdAmount := 0, cr.rxdAmount := 0, eng := .txAddr, seq.pc := .poll, seq.pollCnt := n } := by
  have htrigger := (seqStep_trigger { s with env.sched := rest } hp).trans (triggerStep_idle hen hidle)
  rw [zeroPollCnt_eq] at htrigger
  exact ⟨_, (step_turn s .seq rest hsched).trans htrigger⟩

/-- The turn of E-TXADDR, where the simulated device is at another address (R80, R192). -/
theorem step_txAddr_wrongDevice {s : State} {rest : List Turn} (hen : s.cr.enable = true) (hg : s.eng = .txAddr)
    (hk : s.dev.kind = .simdev) (hinject : s.dev.inject = []) (hne : s.cr.address ≠ s.dev.simAddr)
    (hsched : s.env.sched = .agent .eng :: rest) :
    step s = .next { s with
      env.sched := rest, wire := s.wire ++ [.start, .sent (addressByte s.cr.address 0#1) .n]
      dev.asked := s.dev.asked + 1, eng := .stalled } := by
  have hnack : (devAddrAck 0#1 { s with env.sched := rest }).1 = .nack := by
    rw [devAddrAck_simdev (s := { s with env.sched := rest }) hk (by rw [hinject]; rfl), simAddrAck, if_neg hne]
  exact (step_turn s .eng rest hsched).trans (engTxAddrStep { s with env.sched := rest } .nack hen hg hnack)

/-- Settles O42: TRIGGER of an inactive peripheral starts nothing, and POLL waits. -/
theorem disabledTransferHangs : Obligations.DisabledTransferHangs := by
  unfold Obligations.DisabledTransferHangs
  intro i s rest hcmd hi hp hen hsched
  obtain ⟨dev, hcmd⟩ : ∃ dev, (∃ r, i = .regRead dev r) ∨ (∃ r b, i = .regWrite dev r b) ∨
      ∃ r m b, i = .regWriteMask dev r m b := by
    obtain ⟨dev, h⟩ | ⟨dev, h⟩ | ⟨dev, h⟩ := hcmd
    · exact ⟨dev, .inl h⟩
    · exact ⟨dev, .inr (.inl h)⟩
    · exact ⟨dev, .inr (.inr h)⟩
  obtain ⟨t, v, hexec, hsetup, hpv, _, henv, hflags, hidle, hwire, _, hfault, _, hrest⟩ :=
    transfer_to_trigger hi hp hcmd hsched
  obtain ⟨n, htrigger⟩ := step_trigger_inactive hpv (henv.trans hen) hrest
  have hstopped : v.cr.eventsStopped = false := ((flagsClear_iff v).1 hflags).2.2
  exact ⟨t, _, hexec, (core_run_next hsetup).trans (core_run_next htrigger), ⟨rfl, hstopped, .inr (.inl hidle)⟩, hidle,
    hflags, hwire, hfault⟩

/-- Settles O43: TRIGGER starts the engine, no device acknowledges the address byte, and the engine stalls while POLL
waits. -/
theorem wrongDeviceHangs : Obligations.WrongDeviceHangs := by
  unfold Obligations.WrongDeviceHangs
  intro i dev s rest hcmd hi hp hen hk hinject hne hsched
  obtain ⟨t, v, hexec, hsetup, hpv, haddr, henv, hflags, hidle, hwire, hdev, hfault, hresps, hrest⟩ :=
    transfer_to_trigger hi hp hcmd hsched
  obtain ⟨n, hstart⟩ := step_trigger_starts hpv (henv.trans hen) hidle hrest
  have hstopped : v.cr.eventsStopped = false := ((flagsClear_iff v).1 hflags).2.2
  refine ⟨t, _, hexec, (core_run_next hsetup).trans <| (core_run_next hstart).trans <| core_run_next <|
      step_txAddr_wrongDevice (henv.trans hen) rfl (hdev ▸ hk) (hdev ▸ hinject) ?_ rfl,
    ⟨rfl, hstopped, .inl rfl⟩, rfl, hflags, rfl, rfl, ?_, hfault, hresps, fun r => ?_⟩
  · show v.cr.address ≠ v.dev.simAddr
    rw [haddr, hdev]
    exact hne
  · show v.wire ++ [.start, .sent (addressByte v.cr.address 0#1) .n] = _
    rw [hwire, haddr]
  · show storeByte { v.dev with asked := v.dev.asked + 1 } r = _
    rw [hdev]
    rfl

end Sys2Proof.Machine
end

section
/-! PROOF. From a state of the invariant every step answers, but for an ENABLE with equal pins: what the sequencer, the engine
and the device need of it, phase by phase (R42, R204, R207). -/

namespace Sys2Proof.Machine

/-! ### The sequencer -/

theorem bufRead_of_written {a : Nat} {s : State} (hsize : a < s.par.bufSize) (h : bufWritten s a = true) :
    ∃ v, bufRead a s = .next v := by
  obtain ⟨v, hv⟩ := Option.isSome_iff_exists.1 h
  exact ⟨v, bufRead_next.2 ⟨hsize, by rw [memRead, hv]⟩⟩

/-- ACCEPT answers, or refuses an ENABLE with equal pins (R105). -/
theorem seqStep_accept_goes {s : State} {w : CmdWord} (hp : s.seq.pc = .idle) (hw : s.port = some w) :
    (∃ t, seqStep s = .next t) ∨
      (seqStep s = .refused .equalPins ∧ ∃ a fast, decode s.par.pinCount w = .ok (.enable a a fast)) := by
  cases hd : decode s.par.pinCount w with
  | error e => exact .inl ⟨_, seqStep_illegal hp hw hd⟩
  | ok i =>
    rw [seqStep_legal hp hw hd]
    obtain ⟨a, fast, rfl, e⟩ | ⟨_, _, _, _, _, e⟩ | ⟨_, e⟩ | ⟨_, _, _, _, _, _, _, e⟩ :=
      exec_idle_cases i (takePort s) hp
    · exact .inr ⟨e, a, fast, rfl⟩
    · exact .inl ⟨_, e⟩
    · exact .inl ⟨_, e⟩
    · exact .inl ⟨_, e⟩

/-- TRIGGER answers where the engine is at rest (R191). -/
theorem seqStep_trigger_goes {s : State} (hp : s.seq.pc = .trigger) (hidle : s.eng = .idle) :
    ∃ t, seqStep s = .next t := by
  rw [seqStep_trigger s hp]
  cases hen : s.cr.enable with
  | true => exact ⟨_, triggerStep_idle hen hidle⟩
  | false => exact ⟨_, triggerStep_inactive hen⟩

theorem seqStep_poll_goes {s : State} (hp : s.seq.pc = .poll) : ∃ t, seqStep s = .next t := by
  rw [seqStep_poll s hp]
  obtain ⟨_, e⟩ | ⟨_, _, e⟩ | ⟨_, _, _, e⟩ := pollStep_cases s <;> exact ⟨_, e⟩

theorem seqStep_check_goes {s : State} (hp : s.seq.pc = .check) : ∃ t, seqStep s = .next t := by
  cases hx : s.seq.xfer with
  | rd =>
    rw [seqStep_checkRd s hp hx]
    obtain ⟨_, e⟩ | ⟨_, _, e⟩ := checkRd_cases s <;> exact ⟨_, e⟩
  | wr =>
    rw [seqStep_checkWr s hp hx]
    obtain ⟨_, e⟩ | ⟨_, e⟩ := checkWr_cases s <;> exact ⟨_, e⟩

theorem seqStep_clear_goes {s : State} (hp : s.seq.pc = .clear) : ∃ t, seqStep s = .next t := by
  cases hx : s.seq.xfer with
  | rd => exact ⟨_, (seqStep_clearRd s hp hx).trans (clearRd_eq s)⟩
  | wr => exact ⟨_, (seqStep_clearWr s hp hx).trans (clearWr_eq s)⟩

/-- COMPLETE answers where the opcode fits and a read's byte has been received (R159). -/
theorem seqStep_complete_goes {s : State} (hp : s.seq.pc = .complete) (hsize : 3 ≤ s.par.bufSize) (hop : opFits s)
    (hbyte : s.seq.xfer = .rd → bufWritten s 2 = true) : ∃ t, seqStep s = .next t := by
  cases hx : s.seq.xfer with
  | rd =>
    obtain ⟨v, hv⟩ := bufRead_of_written (by omega) (hbyte hx)
    rw [seqStep_completeRd s hp hx]
    obtain hread | hmask := hop.1 hx
    · exact ⟨_, completeRd_respond hv hread⟩
    · exact ⟨_, completeRd_beginWrite hv hmask⟩
  | wr => exact ⟨_, seqStep_completeWr s hp hx⟩

theorem seqStep_goes {s : State} (hi : Inv s) :
    (∃ t, seqStep s = .next t) ∨
      (seqStep s = .refused .equalPins ∧ s.seq.pc = .idle ∧
        ∃ w a fast, s.port = some w ∧ decode s.par.pinCount w = .ok (.enable a a fast)) := by
  obtain ⟨hwf, _, _, _, hphase⟩ := hi
  have hsize := Params.wf_bufSize hwf
  cases hp : s.seq.pc with
  | idle =>
    cases hw : s.port with
    | none => exact .inl ⟨_, seqStep_idle_none s hp hw⟩
    | some w =>
      exact (seqStep_accept_goes hp hw).imp id fun ⟨hrefused, a, fast, hd⟩ => ⟨hrefused, rfl, w, a, fast, rfl, hd⟩
  | setup =>
    obtain ⟨_, hop⟩ := (phaseCoherent_setup hp).1 hphase
    exact .inl (seqStep_setup_goes hp hsize hop)
  | trigger =>
    obtain ⟨⟨_, hidle⟩, _⟩ := (phaseCoherent_trigger hp).1 hphase
    exact .inl (seqStep_trigger_goes hp hidle)
  | poll => exact .inl (seqStep_poll_goes hp)
  | check => exact .inl (seqStep_check_goes hp)
  | clear => exact .inl (seqStep_clear_goes hp)
  | complete =>
    obtain ⟨hop, _, hbyte⟩ := (phaseCoherent_complete hp).1 hphase
    exact .inl (seqStep_complete_goes hp hsize hop hbyte)
  | fatal => exact .inl ⟨_, seqStep_fatal s hp⟩

/-! ### The engine -/

/-- The device answers the two payload bytes of a command (R80). -/
theorem devWriteByte_goes {i : Nat} (b : Byte) (s : State) (hi : i < 2) : ∃ k q, devWriteByte i b s = .next (k, q) := by
  simp only [devWriteByte]
  split
  · exact ⟨_, _, rfl⟩
  · split
    · exact ⟨_, _, rfl⟩
    · split
      · exact ⟨_, _, rfl⟩
      next h0 => exact ⟨_, _, if_pos (by omega)⟩

/-- The device answers the one byte read of a command (R80). -/
theorem devReadByte_goes (s : State) : ∃ r q, devReadByte 0 s = .next (r, q) := by
  simp only [devReadByte]
  split
  · exact ⟨_, _, rfl⟩
  · split <;> exact ⟨_, _, rfl⟩

/-- The byte that E-TXDATA sends next is one of the descriptor's two, and it is written (R42). -/
theorem txData_ready {s : State} (hdesc : descriptorReady s) (hlt : s.cr.txdAmount.toNat < s.cr.txdMaxcnt.toNat) :
    s.cr.txdAmount.toNat < 2 ∧ bufWritten s (s.cr.txdPtr.toNat + s.cr.txdAmount.toNat) = true := by
  obtain ⟨_, hptr, h0, hrd, hwr⟩ := hdesc
  have hptr' : s.cr.txdPtr.toNat = 0 := by rw [hptr]; rfl
  rw [hptr', Nat.zero_add]
  cases hx : s.seq.xfer with
  | rd =>
    rw [(hrd hx).2.1] at hlt
    obtain hzero : s.cr.txdAmount.toNat = 0 := Nat.lt_one_iff.1 hlt
    rw [hzero]
    exact ⟨by omega, h0⟩
  | wr =>
    obtain ⟨_, hmax, h1⟩ := hwr hx
    rw [hmax] at hlt
    have hlt : s.cr.txdAmount.toNat < 2 := hlt
    refine ⟨hlt, ?_⟩
    obtain hzero | hone : s.cr.txdAmount.toNat = 0 ∨ s.cr.txdAmount.toNat = 1 := by omega
    · rw [hzero]; exact h0
    · rw [hone]; exact h1

theorem engTxData_goes {s : State} (hdesc : descriptorReady s) (hsize : 3 ≤ s.par.bufSize)
    (hlt : s.cr.txdAmount.toNat < s.cr.txdMaxcnt.toNat) : ∃ t, engTxData s = .next t := by
  obtain ⟨hcount, hwritten⟩ := txData_ready hdesc hlt
  have hptr : s.cr.txdPtr.toNat = 0 := by rw [hdesc.2.1]; rfl
  obtain ⟨b, hb⟩ := bufRead_of_written (by omega) hwritten
  obtain ⟨k, q, hq⟩ := devWriteByte_goes b s hcount
  exact ⟨_, engTxData_answer hb hq⟩

/-- SETUP never links transmit-done to both the read phase and the stop condition (R204). -/
theorem engLastTx_goes {s : State} (hdesc : descriptorReady s) : ∃ t, engLastTx s = .next t := by
  obtain ⟨_, _, _, hrd, hwr⟩ := hdesc
  cases hx : s.seq.xfer with
  | rd =>
    have hshorts := (hrd hx).1
    exact ⟨_, engLastTx_startRx (by rw [txDoneStartRx, hshorts]; rfl) (by rw [txDoneStop, hshorts]; rfl)⟩
  | wr =>
    have hshorts := (hwr hx).1
    exact ⟨_, engLastTx_stop (by rw [txDoneStartRx, hshorts]; rfl) (by rw [txDoneStop, hshorts]; rfl)⟩

theorem engRxData_goes {s : State} (hdesc : descriptorReady s) (hno : noReadPhaseInWrite s) (hg : s.eng = .rxData)
    (hsize : 3 ≤ s.par.bufSize) (hlt : s.cr.rxdAmount.toNat < s.cr.rxdMaxcnt.toNat) : ∃ t, engRxData s = .next t := by
  obtain ⟨_, _, _, hrd, _⟩ := hdesc
  cases hx : s.seq.xfer with
  | wr => exact absurd hg (hno hx).2.2
  | rd =>
    obtain ⟨_, _, hptr, hmax⟩ := hrd hx
    rw [hmax] at hlt
    have hzero : s.cr.rxdAmount.toNat = 0 := Nat.lt_one_iff.1 hlt
    have hptr : s.cr.rxdPtr.toNat = 2 := by rw [hptr]; rfl
    obtain ⟨r, q, hq⟩ := devReadByte_goes s
    rw [← hzero] at hq
    cases r with
    | byte v => exact ⟨_, engRxData_byte hq (by omega)⟩
    | abort => exact ⟨_, engRxData_abort hq⟩

theorem engStep_goes {s : State} (hi : Inv s) : ∃ t, engStep s = .next t := by
  by_cases hg : s.eng = .idle
  · exact ⟨_, engStep_disabled s (engEnabled_of_idle hg)⟩
  obtain ⟨_, hdesc, hno⟩ := hi.engine_active hg
  have hsize := Params.wf_bufSize hi.1
  rcases engStep_cases s with e | ⟨_, _, e⟩ | ⟨_, _, _, e⟩ | ⟨_, _, hlt, e⟩ | ⟨_, _, e⟩ | ⟨_, _, _, e⟩ |
    ⟨_, hg, hlt, e⟩ | ⟨_, _, e⟩ <;> rw [e]
  · exact ⟨_, rfl⟩
  · exact ⟨_, engTxAddr_eq s⟩
  · exact engLastTx_goes hdesc
  · exact engTxData_goes hdesc hsize hlt
  · exact ⟨_, engRxAddr_eq s⟩
  · exact ⟨_, rfl⟩
  · exact engRxData_goes hdesc hno hg hsize hlt
  · exact ⟨_, rfl⟩

/-! ### The statement -/

/-- Settles O48: HOST and the reset event always answer, the engine does by the invariant, and the sequencer but for the one
refusal. -/
theorem onlyEqualPinsStop : Obligations.OnlyEqualPinsStop := by
  unfold Obligations.OnlyEqualPinsStop
  intro s hi
  rcases machineStep_cases s with ⟨e, a, hstep, _⟩ | ⟨e, hstep, _⟩ | ⟨hstep, _⟩ <;> rw [step, hstep]
  · cases a with
    | host => exact .inl ⟨_, rfl⟩
    | seq => exact seqStep_goes (s := { s with env := e }) hi
    | eng => exact .inl (engStep_goes (s := { s with env := e }) hi)
  · exact .inl ⟨_, rfl⟩
  · exact .inl ⟨_, rfl⟩

end Sys2Proof.Machine
end

section
/-! PROOF. A well-behaved device (R79) as functions: what it is after each question, and what it answers a read. -/

namespace Sys2Proof.Machine

/-- The device after it acknowledges payload byte `i` sent to it at `a`: where the acknowledgement is its own, the simulated
device takes byte 0 as its pointer and stores byte 1 (R80). -/
def ackedByte (a : DevAddr) (i : Nat) (b : Byte) (d : Device) : Device :=
  if d.kind = .simdev ∧ injectedAck d (d.asked + 1) a = none then
    if i = 0 then simSetPtr b (countQuestion d) else simStoreByte b (countQuestion d)
  else countQuestion d

/-- The device's answer to a first read question at `a`: the placed one, else its own (R78, R80). -/
def readAnswer (a : DevAddr) (d : Device) : ReadAns :=
  (injectedRead d (d.asked + 1) a).getD
    (match d.kind with
      | .oracle => Config.freeRead (d.asked + 1) a
      | .simdev => .byte (storeByte d d.simPtr))

theorem devWriteByte_acked {s : State} {i : Nat} (b : Byte) (hi : i = 0 ∨ i = 1) (h : s.dev.WellBehaved s.cr.address) :
    devWriteByte i b s = .next (.ack, { s with dev := ackedByte s.cr.address i b s.dev }) ∧
      (ackedByte s.cr.address i b s.dev).WellBehaved s.cr.address := by
  obtain ⟨d, hq, hw, hcounted, hown⟩ := devWriteByte_wellBehaved i b hi h rfl
  have hd : ackedByte s.cr.address i b s.dev = d := by
    unfold ackedByte
    split
    next hsim => exact (hown hsim.1 hsim.2).symm
    next hsim =>
      refine (hcounted ?_).symm
      cases hk : s.dev.kind with
      | oracle => exact .inl rfl
      | simdev => exact .inr fun hnone => hsim ⟨hk, hnone⟩
  rw [hd]
  exact ⟨hq, hw⟩

/-- A well-behaved device answers a first read question with a byte (R79). -/
theorem devReadByte_answer {s : State} (h : s.dev.WellBehaved s.cr.address) :
    ∃ v, readAnswer s.cr.address s.dev = .byte v ∧
      devReadByte 0 s = .next (.byte v, { s with dev := countQuestion s.dev }) := by
  obtain ⟨v, hq, horacle, hsim⟩ := devReadByte_wellBehaved h rfl
  refine ⟨v, ?_, hq⟩
  unfold readAnswer
  cases hk : s.dev.kind with
  | oracle => exact horacle hk
  | simdev => exact hsim hk

theorem devReadByte_of_readAnswer {s : State} {v : Byte} (h : s.dev.WellBehaved s.cr.address)
    (hv : readAnswer s.cr.address s.dev = .byte v) :
    devReadByte 0 s = .next (.byte v, { s with dev := countQuestion s.dev }) := by
  obtain ⟨v', hv', hq⟩ := devReadByte_answer h
  cases hv.symm.trans hv'
  exact hq

/-! ### The plain simulated device of R161 -/

/-- The simulated device without placed answers is well-behaved at its own address (R79, R80). -/
theorem PlainSimdev.wellBehaved {d : Device} {a : DevAddr} (h : PlainSimdev d a) : d.WellBehaved a := by
  obtain ⟨hk, haddr, hinject, _⟩ := h
  simp [Device.WellBehaved, hk, haddr, injectedAck, injectedRead, injected, hinject]

theorem PlainSimdev.count {d : Device} {a : DevAddr} (h : PlainSimdev d a) : PlainSimdev (countQuestion d) a := h

theorem PlainSimdev.unplaced {d : Device} {a : DevAddr} (h : PlainSimdev d a) (q : Nat) : injected d.inject q a = none := by
  obtain ⟨_, _, hinject, _⟩ := h
  rw [hinject]
  rfl

theorem ackedByte_of_plainSimdev {d : Device} {a : DevAddr} (h : PlainSimdev d a) (i : Nat) (b : Byte) :
    ackedByte a i b d = if i = 0 then simSetPtr b (countQuestion d) else simStoreByte b (countQuestion d) :=
  if_pos ⟨h.1, (injected_none_answers (h.unplaced _)).1⟩

theorem readAnswer_of_plainSimdev {d : Device} {a : DevAddr} (h : PlainSimdev d a) :
    readAnswer a d = .byte (storeByte d d.simPtr) := by
  rw [readAnswer, (injected_none_answers (h.unplaced _)).2, h.1]
  rfl

/-- Without reserved bits the byte stored is the byte sent (R80). -/
theorem PlainSimdev.storeByte_same {d : Device} {a : DevAddr} (h : PlainSimdev d a)
    (hwf : Memory.wf storeUnlisted 256 d.simStore = true) (b : Byte) : storeByte (simStoreByte b d) d.simPtr = b := by
  obtain ⟨_, _, _, hrsvd⟩ := h
  have hmask : rsvdByte d d.simPtr = 0 := by rw [rsvdByte, hrsvd]; rfl
  rw [storeByte_simStoreByte_same b d hwf, hmask]
  simp [byte_and_ones]

end Sys2Proof.Machine
end

section
/-! PROOF. The engine's steps of a nominal transaction, one after the other (R201, R202), with the schedule left free: a
schedule's entries are no part of what a step reads. -/

namespace Sys2Proof.Machine

/-- Enabled steps of the engine lead from one state to another, whatever the schedule; in each state they leave, "stopped"
reads `stopped`. -/
inductive EngPath (stopped : Bool) : Nat → State → State → Prop where
  | rest (s : State) : EngPath stopped 0 s s
  | move {n : Nat} {s t u : State} (hstopped : s.cr.eventsStopped = stopped) (henabled : engEnabled s = true)
      (hstep : ∀ e, engStep { s with env := e } = .next { t with env := e }) (h : EngPath stopped n t u) :
      EngPath stopped (n + 1) s u

theorem EngPath.engRun {stopped : Bool} {n : Nat} {s u : State} (h : EngPath stopped n s u) (e : Env) :
    engRun n { s with env := e } = .next { u with env := e } := by
  induction h with
  | rest s => rfl
  | move _ _ hstep _ ih => exact (engRun_next (hstep e)).trans ih

/-- The device of `transmitting` after the payload byte it acknowledges next (R193). -/
theorem engStep_transmitByte_acked {s : State} {bytes : List Byte} {d : Device} {b : Byte} (hen : s.cr.enable = true)
    (hptr : s.cr.txdPtr = 0) (hfirst : bytes.length ≤ 1) (hmore : bytes.length < s.cr.txdMaxcnt.toNat)
    (hsize : bytes.length < s.par.bufSize) (hbyte : bufByte s bytes.length = some b) (hw : d.WellBehaved s.cr.address) :
    engStep (transmitting s bytes d) =
      .next (transmitting s (bytes ++ [b]) (ackedByte s.cr.address bytes.length b d)) := by
  have hcount := transmitting_txdAmount s d hfirst
  have hq := (devWriteByte_acked (s := transmitting s bytes d) b (i := bytes.length) (by omega) hw).1
  rw [← hcount] at hq
  have hread := bufRead_transmitting (d := d) hptr hfirst hsize hbyte
  rw [engStep_txData (transmitting s bytes d) hen rfl (hcount ▸ hmore), engTxData_answer hread hq, hcount]
  simp [transmitting, BitVec.ofNat_add]

theorem engEnabled_transmitting {s : State} {bytes : List Byte} (d : Device) (hen : s.cr.enable = true)
    (hfirst : bytes.length ≤ 2) (hmore : bytes.length ≤ s.cr.txdMaxcnt.toNat) :
    engEnabled (transmitting s bytes d) = true := by
  have hcount : (BitVec.ofNat 8 bytes.length).toNat = bytes.length := by rw [BitVec.toNat_ofNat]; omega
  simp [engEnabled, transmitting, hen]
  omega

/-- What TRIGGER leaves of a write transfer: the engine about to send its two payload bytes to a well-behaved device. -/
abbrev WriteArmed (s : State) (reg data : Byte) : Prop :=
  s.cr.enable = true ∧ s.eng = .txAddr ∧ s.dev.WellBehaved s.cr.address ∧ 3 ≤ s.par.bufSize ∧
    bufByte s 0 = some reg ∧ bufByte s 1 = some data ∧
    s.cr.shorts = 0b100#3 ∧ s.cr.txdPtr = 0 ∧ s.cr.txdMaxcnt = 2 ∧ s.cr.txdAmount = 0

/-- The device after the transmit phase of a write: its address and two payload bytes acknowledged. -/
def writtenDevice (a : DevAddr) (reg data : Byte) (d : Device) : Device :=
  ackedByte a 1 data (ackedByte a 0 reg (countQuestion d))

/-- A nominal write's last state. -/
def writeFinished (s : State) (reg data : Byte) : State :=
  { s with
    wire := s.wire ++ writeTrace s.cr.address reg data, dev := writtenDevice s.cr.address reg data s.dev
    cr.txdAmount := 2, cr.eventsTxDone := true, cr.eventsStopped := true, eng := .idle }

/-- The five steps of a nominal write (R202). -/
theorem engPath_write {s : State} {reg data : Byte} (h : WriteArmed s reg data) :
    EngPath s.cr.eventsStopped 5 s (writeFinished s reg data) := by
  obtain ⟨hen, hg, hw, hsize, hreg, hdata, hshorts, hptr, hmax, htx⟩ := h
  have hmax' : s.cr.txdMaxcnt.toNat = 2 := by rw [hmax]; rfl
  have hsize₀ : 0 < s.par.bufSize := by omega
  have hsize₁ : 1 < s.par.bufSize := by omega
  have hw₁ := hw.count
  have hw₂ := (devWriteByte_acked (s := transmitting s [] (countQuestion s.dev)) reg (.inl rfl) hw₁).2
  have hlinks : txDoneStartRx s = false ∧ txDoneStop s = true := by simp [txDoneStartRx, txDoneStop, hshorts]
  refine .move (t := transmitting s [] (countQuestion s.dev)) rfl (by simp [engEnabled, hen, hg])
    (fun e => engStep_beginTransmit (s := { s with env := e }) hen hg htx hw) ?_
  refine .move (t := transmitting s [reg] (ackedByte s.cr.address 0 reg (countQuestion s.dev))) rfl
    (engEnabled_transmitting _ hen (by simp) (by simp))
    (fun e => engStep_transmitByte_acked (s := { s with env := e }) (bytes := []) hen hptr (by simp) (by simp [hmax'])
      hsize₀ hreg hw₁) ?_
  refine .move (t := transmitting s [reg, data] (writtenDevice s.cr.address reg data s.dev)) rfl
    (engEnabled_transmitting _ hen (by simp) (by simp [hmax']))
    (fun e => engStep_transmitByte_acked (s := { s with env := e }) (bytes := [reg]) hen hptr (by simp) (by simp [hmax'])
      hsize₁ hdata hw₂) ?_
  refine .move
    (t := setEng .stopping (generateTxDone (transmitting s [reg, data] (writtenDevice s.cr.address reg data s.dev)))) rfl
    (engEnabled_transmitting _ hen (by simp) (by simp [hmax']))
    (fun e => engStep_endTransmit (s := { s with env := e }) (bytes := [reg, data]) hen hmax.symm hlinks.1 hlinks.2) ?_
  refine .move (t := writeFinished s reg data) rfl (by simp [engEnabled, transmitting, hen]) (fun e => ?_) (.rest _)
  rw [engStep_stopping { setEng .stopping (generateTxDone
    (transmitting s [reg, data] (writtenDevice s.cr.address reg data s.dev))) with env := e } hen rfl, engStop]
  simp [writeFinished, transmitting, writeTrace, setEng, generateStopped, emit, generateTxDone]

/-! ### The read -/

/-- What TRIGGER leaves of a read transfer: the engine about to send the register address to a well-behaved device, and to
receive one byte. -/
abbrev ReadArmed (s : State) (reg : Byte) : Prop :=
  s.cr.enable = true ∧ s.eng = .txAddr ∧ s.dev.WellBehaved s.cr.address ∧ 3 ≤ s.par.bufSize ∧ bufByte s 0 = some reg ∧
    s.cr.shorts = 0b011#3 ∧ s.cr.txdPtr = 0 ∧ s.cr.txdMaxcnt = 1 ∧ s.cr.txdAmount = 0 ∧
    s.cr.rxdPtr = 2 ∧ s.cr.rxdMaxcnt = 1 ∧ s.cr.rxdAmount = 0

/-- The device when a read asks for its byte: its address, the register address and its address again acknowledged. -/
def addressedDevice (a : DevAddr) (reg : Byte) (d : Device) : Device :=
  countQuestion (ackedByte a 0 reg (countQuestion d))

/-- `s` after the transmit phase of a read: its link leads to the repeated start (R194). -/
def readLinked (s : State) (reg : Byte) : State :=
  setEng .rxAddr (generateTxDone (transmitting s [reg] (ackedByte s.cr.address 0 reg (countQuestion s.dev))))

/-- `s` in its read phase: the device has acknowledged its address once more (R195). -/
def readAddressed (s : State) (reg : Byte) : State :=
  { readLinked s reg with
    wire := (readLinked s reg).wire ++ [.repStart, .sent (addressByte s.cr.address 1#1) .a]
    dev := addressedDevice s.cr.address reg s.dev, eng := .rxData }

/-- The state `s` in its read phase after the one byte received (R196). -/
def received (s : State) (v : Byte) : State :=
  { s with
    dev := countQuestion s.dev, buf := memWrite bufUnlisted s.buf 2 v, cr.rxdAmount := 1
    wire := s.wire ++ [.got v .n] }

/-- A nominal read's last state. -/
def readFinished (s : State) (reg v : Byte) : State :=
  { s with
    wire := s.wire ++ readTrace s.cr.address reg v, dev := countQuestion (addressedDevice s.cr.address reg s.dev)
    cr.txdAmount := 1, cr.rxdAmount := 1, buf := memWrite bufUnlisted s.buf 2 v
    cr.eventsTxDone := true, cr.eventsRxDone := true, cr.eventsStopped := true, eng := .idle }

/-- A well-behaved device gives its byte, which is the only one and is not acknowledged (R196). -/
theorem engStep_receiveByte {s : State} {v : Byte} (hen : s.cr.enable = true) (hg : s.eng = .rxData)
    (hsize : 3 ≤ s.par.bufSize) (hptr : s.cr.rxdPtr = 2) (hmax : s.cr.rxdMaxcnt = 1) (hrx : s.cr.rxdAmount = 0)
    (hw : s.dev.WellBehaved s.cr.address) (hv : readAnswer s.cr.address s.dev = .byte v) :
    engStep s = .next (received s v) := by
  have hplace : s.cr.rxdPtr.toNat + s.cr.rxdAmount.toNat = 2 := by rw [hptr, hrx]; rfl
  have hzero : s.cr.rxdAmount.toNat = 0 := by rw [hrx]; rfl
  have hq : devReadByte s.cr.rxdAmount.toNat s = _ := hzero ▸ devReadByte_of_readAnswer hw hv
  rw [engStep_rxData s hen hg (by rw [hzero, hmax]; decide), engRxData_byte hq (by omega), hplace, hrx, hmax]
  rfl

/-- The seven steps of a nominal read (R201). -/
theorem engPath_read {s : State} {reg v : Byte} (h : ReadArmed s reg)
    (hv : readAnswer s.cr.address (addressedDevice s.cr.address reg s.dev) = .byte v) :
    EngPath s.cr.eventsStopped 7 s (readFinished s reg v) := by
  obtain ⟨hen, hg, hw, hsize, hreg, hshorts, hptr, hmax, htx, hrptr, hrmax, hrx⟩ := h
  have hmax' : s.cr.txdMaxcnt.toNat = 1 := by rw [hmax]; rfl
  have hsize₀ : 0 < s.par.bufSize := by omega
  have hw₁ := hw.count
  have hw₂ := (devWriteByte_acked (s := transmitting s [] (countQuestion s.dev)) reg (.inl rfl) hw₁).2
  have hlinks : txDoneStartRx s = true ∧ txDoneStop s = false ∧ rxDoneStop s = true := by
    simp [txDoneStartRx, txDoneStop, rxDoneStop, hshorts]
  obtain ⟨hstartRx, hnoStop, hstop⟩ := hlinks
  refine .move (t := transmitting s [] (countQuestion s.dev)) rfl (by simp [engEnabled, hen, hg])
    (fun e => engStep_beginTransmit (s := { s with env := e }) hen hg htx hw) ?_
  refine .move (t := transmitting s [reg] (ackedByte s.cr.address 0 reg (countQuestion s.dev))) rfl
    (engEnabled_transmitting _ hen (by simp) (by simp))
    (fun e => engStep_transmitByte_acked (s := { s with env := e }) (bytes := []) hen hptr (by simp) (by simp [hmax'])
      hsize₀ hreg hw₁) ?_
  refine .move (t := readLinked s reg) rfl (engEnabled_transmitting _ hen (by simp) (by simp [hmax']))
    (fun e => (engStep_lastTx (transmitting { s with env := e } [reg] _) hen rfl hmax.symm).trans
      (engLastTx_startRx hstartRx hnoStop)) ?_
  refine .move (t := readAddressed s reg) rfl (by simp [engEnabled, readLinked, transmitting, hen])
    (fun e => engRxAddrStep { readLinked s reg with env := e } .ack hen rfl
      (by rw [devAddrAck_wellBehaved 1#1 hw₂ rfl])) ?_
  refine .move (t := received (readAddressed s reg) v) rfl
    (by simp [engEnabled, readAddressed, readLinked, transmitting, hen, hrx])
    (fun e => engStep_receiveByte (s := { readAddressed s reg with env := e }) hen rfl hsize hrptr hrmax hrx hw₂.count hv) ?_
  refine .move (t := setEng .stopping (generateRxDone (received (readAddressed s reg) v))) rfl
    (by simp [engEnabled, received, readAddressed, readLinked, transmitting, hen, hrmax])
    (fun e => (engStep_lastRx { received (readAddressed s reg) v with env := e } hen rfl hrmax.symm).trans
      (engLastRx_stop hstop)) ?_
  refine .move (t := readFinished s reg v) rfl
    (by simp [engEnabled, received, readAddressed, readLinked, transmitting, hen]) (fun e => ?_) (.rest _)
  rw [engStep_stopping { setEng .stopping (generateRxDone (received (readAddressed s reg) v)) with env := e } hen rfl,
    engStop]
  simp [readFinished, received, readAddressed, readLinked, transmitting, readTrace, setEng, generateStopped, emit,
    generateTxDone, generateRxDone]

/-- A read's byte, where the device is the simulated one: the placed answer, else the stored byte at its pointer, which the
register address has become where its acknowledgement is the device's own (R80). -/
theorem readAnswer_addressed_simdev {a : DevAddr} {reg : Byte} {d : Device} (hk : d.kind = .simdev) :
    readAnswer a (addressedDevice a reg d) = (injectedRead d (d.asked + 4) a).getD (.byte (storeByte d
      (if injectedAck d (d.asked + 2) a = none then reg else d.simPtr))) := by
  have hown : addressedDevice a reg d = { d with
      asked := d.asked + 3, simPtr := if injectedAck d (d.asked + 2) a = none then reg else d.simPtr } := by
    unfold addressedDevice ackedByte
    split
    next hsim =>
      have hnone : injectedAck d (d.asked + 2) a = none := hsim.2
      rw [if_pos rfl, if_pos hnone]
      rfl
    next hsim =>
      have hplaced : injectedAck d (d.asked + 2) a ≠ none := fun hnone => hsim ⟨hk, hnone⟩
      rw [if_neg hplaced]
      rfl
  rw [hown, readAnswer]
  simp only [hk]
  rfl

theorem readAnswer_addressed_oracle {a : DevAddr} {reg : Byte} {d : Device} (hk : d.kind = .oracle) :
    readAnswer a (addressedDevice a reg d) =
      (injectedRead d (d.asked + 4) a).getD (Config.freeRead (d.asked + 4) a) := by
  have hcounted : addressedDevice a reg d = { d with asked := d.asked + 3 } := by
    unfold addressedDevice ackedByte
    rw [if_neg]
    · rfl
    · rintro ⟨hsim, _⟩
      cases hk.symm.trans hsim
  rw [hcounted, readAnswer]
  simp only [hk]
  rfl

/-- A well-behaved device, addressed by a read, stays so and answers with a byte (R79). -/
theorem addressedDevice_answers {s : State} (reg : Byte) (h : s.dev.WellBehaved s.cr.address) :
    (addressedDevice s.cr.address reg s.dev).WellBehaved s.cr.address ∧
      ∃ v, readAnswer s.cr.address (addressedDevice s.cr.address reg s.dev) = .byte v := by
  have hacked := (devWriteByte_acked (s := { s with dev := countQuestion s.dev }) reg (.inl rfl) h.count).2.count
  obtain ⟨v, hv, _⟩ := devReadByte_answer (s := { s with dev := addressedDevice s.cr.address reg s.dev }) hacked
  exact ⟨hacked, v, hv⟩

/-- Settles O33: the seven steps, and the byte is what the device answers once it is addressed. -/
theorem nominalReadTransaction : Obligations.NominalReadTransaction := by
  unfold Obligations.NominalReadTransaction
  intro s dev reg hen hg hsize ha hw hreg hshorts hptr hmax htx hrptr hrmax hrx
  subst ha
  obtain ⟨_, v, hv⟩ := addressedDevice_answers reg hw
  have hpath := engPath_read ⟨hen, hg, hw, hsize, hreg, hshorts, hptr, hmax, htx, hrptr, hrmax, hrx⟩ hv
  exact ⟨v, readFinished s reg v, hpath.engRun s.env, rfl, fun hk => (readAnswer_addressed_simdev hk).symm.trans hv,
    fun hk => (readAnswer_addressed_oracle hk).symm.trans hv, rfl, rfl, memRead_bufWrite_same s.buf 2 v, rfl, rfl, rfl,
    rfl⟩

end Sys2Proof.Machine
end

section
/-! PROOF. A transfer from SETUP to COMPLETE as a path of states in which of SEQ and ENG only one moves the block, so that
neither the schedule nor the order of polls and engine steps matters (R161, R208). -/

namespace Sys2Proof.Machine

/-! ### Moves and paths -/

/-- Of SEQ and ENG only `a` moves the block, from `s` to `t`, whatever the schedule; or `a` is HOST, and neither does. -/
abbrev Moves (a : Agent) (s t : State) : Prop :=
  agentEnabled s a = true ∧ (∀ e, agentStep a { s with env := e } = .next { t with env := e }) ∧
    ∀ b, b ≠ .host → b ≠ a → ∀ e, agentStep b { s with env := e } = .next { s with env := e }

/-- A move of SEQ or ENG that leaves HOST and the response's valid bit. -/
abbrev QuietMove (a : Agent) (s t : State) : Prop :=
  Moves a s t ∧ a ≠ .host ∧ t.host = s.host ∧ t.seq.respValid = s.seq.respValid

/-- The agents whose quiet moves lead from one state to another. -/
inductive Path : List Agent → State → State → Prop where
  | nil (s : State) : Path [] s s
  | cons {a : Agent} {l : List Agent} {s t u : State} (h : QuietMove a s t) (hpath : Path l t u) : Path (a :: l) s u

theorem Path.append {l l' : List Agent} {s t u : State} (h : Path l s t) (h' : Path l' t u) : Path (l ++ l') s u := by
  induction h with
  | nil s => exact h'
  | cons hmove _ ih => exact .cons hmove (ih h')

/-- The sequencer's step, while the engine has none enabled. -/
theorem moves_seq {s t : State} (henabled : seqEnabled s = true) (hrest : engEnabled s = false)
    (hstep : ∀ e, seqStep { s with env := e } = .next { t with env := e }) : Moves .seq s t := by
  refine ⟨henabled, hstep, fun b hhost hseq e => ?_⟩
  cases b with
  | host => exact absurd rfl hhost
  | seq => exact absurd rfl hseq
  | eng => exact engStep_disabled { s with env := e } hrest

/-- The engine's step, while the sequencer polls without a limit and reads no "stopped". -/
theorem moves_eng {s t : State} (hp : s.seq.pc = .poll) (hlimit : s.par.pollLimit = none)
    (hrun : s.cr.eventsStopped = false) (henabled : engEnabled s = true)
    (hstep : ∀ e, engStep { s with env := e } = .next { t with env := e }) : Moves .eng s t := by
  refine ⟨henabled, hstep, fun b hhost heng e => ?_⟩
  cases b with
  | host => exact absurd rfl hhost
  | eng => exact absurd rfl heng
  | seq =>
    have hpoll := (seqStep_poll { s with env := e } hp).trans (pollStep_unlimited hrun hlimit)
    rwa [setPc_same { s with env := e } hp] at hpoll

/-- A path of the engine while the sequencer polls. -/
theorem EngPath.path {n : Nat} {s u : State} (h : EngPath false n s u) (hp : s.seq.pc = .poll)
    (hlimit : s.par.pollLimit = none) : Path (List.replicate n .eng) s u := by
  induction h with
  | rest s => exact .nil s
  | @move _ s t _ hrun henabled hstep _ ih =>
    obtain ⟨hseq, _, hhost, _, hpar, _⟩ := engineFrame _ _ (hstep s.env)
    have hseq : t.seq = s.seq := hseq
    have hpar : t.par = s.par := hpar
    refine .cons ⟨moves_eng hp hlimit hrun henabled hstep, nofun, hhost, by rw [hseq]⟩ (ih ?_ ?_)
    · rw [hseq, hp]
    · rw [hpar, hlimit]

/-- SETUP and TRIGGER; the engine's steps, `k + 1` of them, while the sequencer polls; POLL, CHECK and CLEAR. -/
abbrev TransferPath (k : Nat) (s t : State) : Prop :=
  ∃ armed finished, Path [.seq, .seq] s armed ∧ Path (List.replicate (k + 1) .eng) armed finished ∧
    Path [.seq, .seq, .seq] finished t

theorem TransferPath.path {k : Nat} {s t : State} (h : TransferPath k s t) :
    Path ([.seq, .seq] ++ List.replicate (k + 1) .eng ++ [.seq, .seq, .seq]) s t := by
  obtain ⟨_, _, hsetup, heng, hcheck⟩ := h
  exact (hsetup.append heng).append hcheck

/-! ### SETUP and TRIGGER -/

/-- A transfer about to begin: at SETUP, the engine at rest, no poll limit and a well-behaved device. -/
abbrev TransferReady (s : State) : Prop :=
  s.seq.pc = .setup ∧ clean s ∧ 3 ≤ s.par.bufSize ∧ s.cr.enable = true ∧ s.par.pollLimit = none ∧
    s.dev.WellBehaved s.seq.dev

/-- What SETUP and TRIGGER leave of a read. -/
def armedRead (s : State) : State :=
  { s with
    cr.address := s.seq.dev, cr.shorts := 0b011#3, cr.txdPtr := 0, cr.txdMaxcnt := 1, cr.txdAmount := 0
    cr.rxdPtr := 2, cr.rxdMaxcnt := 1, cr.rxdAmount := 0
    buf := memWrite bufUnlisted s.buf 0 s.seq.reg, eng := .txAddr, seq.pc := .poll }

/-- What SETUP and TRIGGER leave of a write of the byte `w`. -/
def armedWrite (s : State) (w : Byte) : State :=
  { s with
    cr.address := s.seq.dev, cr.shorts := 0b100#3, cr.txdPtr := 0, cr.txdMaxcnt := 2, cr.txdAmount := 0, cr.rxdAmount := 0
    buf := memWrite bufUnlisted (memWrite bufUnlisted s.buf 0 s.seq.reg) 1 w, eng := .txAddr, seq.pc := .poll }

section
variable {s : State} (hp : s.seq.pc = .trigger) (hen : s.cr.enable = true) (hidle : s.eng = .idle)
  (hlimit : s.par.pollLimit = none)
include hp hen hidle hlimit

/-- TRIGGER starts the engine of an active peripheral; without a poll limit POLLCNT stays (R156, R191). -/
theorem seqStep_trigger_starts :
    seqStep s = .next { s with cr.txdAmount := 0, cr.rxdAmount := 0, eng := .txAddr, seq.pc := .poll } := by
  rw [seqStep_trigger s hp, triggerStep_idle hen hidle, zeroPollCnt_eq, if_pos hlimit]
  rfl

theorem moves_trigger :
    Moves .seq s { s with cr.txdAmount := 0, cr.rxdAmount := 0, eng := .txAddr, seq.pc := .poll } :=
  moves_seq (by simp only [seqEnabled, hp]) (engEnabled_of_idle hidle) fun e =>
    seqStep_trigger_starts (s := { s with env := e }) hp hen hidle hlimit

end

theorem path_armedRead {s : State} (h : TransferReady s) (hx : s.seq.xfer = .rd) :
    Path [.seq, .seq] s (armedRead s) := by
  obtain ⟨hp, ⟨_, hidle⟩, hsize, hen, hlimit, _⟩ := h
  have hsetup : Moves .seq s (setPc .trigger { s with
      cr.address := s.seq.dev, cr.txdPtr := 0, cr.txdMaxcnt := 1, cr.rxdPtr := 2, cr.rxdMaxcnt := 1
      cr.shorts := 0b011#3, buf := memWrite bufUnlisted s.buf 0 s.seq.reg }) :=
    moves_seq (by simp only [seqEnabled, hp]) (engEnabled_of_idle hidle) fun e =>
      (seqStep_setupRd { s with env := e } hp hx).trans (setupRd_eq { s with env := e } (show 0 < s.par.bufSize by omega))
  exact .cons ⟨hsetup, nofun, rfl, rfl⟩ (.cons ⟨moves_trigger rfl hen hidle hlimit, nofun, rfl, rfl⟩ (.nil _))

theorem path_armedWrite {s : State} {w : Byte} (h : TransferReady s) (hx : s.seq.xfer = .wr)
    (hw : wdata s.seq = .next w) : Path [.seq, .seq] s (armedWrite s w) := by
  obtain ⟨hp, ⟨_, hidle⟩, hsize, hen, hlimit, _⟩ := h
  have hsetup : Moves .seq s (setPc .trigger { s with
      cr.address := s.seq.dev, cr.txdPtr := 0, cr.txdMaxcnt := 2, cr.shorts := 0b100#3
      buf := memWrite bufUnlisted (memWrite bufUnlisted s.buf 0 s.seq.reg) 1 w }) :=
    moves_seq (by simp only [seqEnabled, hp]) (engEnabled_of_idle hidle) fun e =>
      (seqStep_setupWr { s with env := e } hp hx).trans
        (setupWr_eq { s with env := e } w (show 1 < s.par.bufSize by omega) hw)
  exact .cons ⟨hsetup, nofun, rfl, rfl⟩ (.cons ⟨moves_trigger rfl hen hidle hlimit, nofun, rfl, rfl⟩ (.nil _))

/-! ### POLL, CHECK and CLEAR -/

section
variable {s : State} (hp : s.seq.pc = .poll) (hidle : s.eng = .idle) (hstopped : s.cr.eventsStopped = true)
include hp hidle hstopped

/-- POLL reads "stopped" (R231). -/
theorem moves_poll_stopped : Moves .seq s (setPc .check s) :=
  moves_seq (by simp only [seqEnabled, hp]) (engEnabled_of_idle hidle) fun e =>
    (seqStep_poll { s with env := e } hp).trans (pollStep_stopped hstopped)

theorem path_checkedRead (hx : s.seq.xfer = .rd) (htx : s.cr.txdAmount = 1) (hrx : s.cr.rxdAmount = 1) :
    Path [.seq, .seq, .seq] s (setPc .complete { s with
      cr.eventsTxDone := false, cr.eventsRxDone := false, cr.eventsStopped := false }) := by
  have hcheck : Moves .seq (setPc .check s) (setPc .clear s) :=
    moves_seq rfl (engEnabled_of_idle hidle) fun e =>
      seqStep_checkRd_pass (s := { setPc .check s with env := e }) rfl hx htx hrx
  have hclear : Moves .seq (setPc .clear s) (setPc .complete { s with
      cr.eventsTxDone := false, cr.eventsRxDone := false, cr.eventsStopped := false }) :=
    moves_seq rfl (engEnabled_of_idle hidle) fun e =>
      (seqStep_clearRd { setPc .clear s with env := e } rfl hx).trans (clearRd_eq _)
  exact .cons ⟨moves_poll_stopped hp hidle hstopped, nofun, rfl, rfl⟩ <| .cons ⟨hcheck, nofun, rfl, rfl⟩ <|
    .cons ⟨hclear, nofun, rfl, rfl⟩ (.nil _)

theorem path_checkedWrite (hx : s.seq.xfer = .wr) (htx : s.cr.txdAmount = 2) :
    Path [.seq, .seq, .seq] s (setPc .complete { s with cr.eventsTxDone := false, cr.eventsStopped := false }) := by
  have hcheck : Moves .seq (setPc .check s) (setPc .clear s) :=
    moves_seq rfl (engEnabled_of_idle hidle) fun e =>
      seqStep_checkWr_pass (s := { setPc .check s with env := e }) rfl hx htx
  have hclear : Moves .seq (setPc .clear s)
      (setPc .complete { s with cr.eventsTxDone := false, cr.eventsStopped := false }) :=
    moves_seq rfl (engEnabled_of_idle hidle) fun e =>
      (seqStep_clearWr { setPc .clear s with env := e } rfl hx).trans (clearWr_eq _)
  exact .cons ⟨moves_poll_stopped hp hidle hstopped, nofun, rfl, rfl⟩ <| .cons ⟨hcheck, nofun, rfl, rfl⟩ <|
    .cons ⟨hclear, nofun, rfl, rfl⟩ (.nil _)

end

/-! ### The transfers up to COMPLETE -/

/-- A read transfer at COMPLETE: the byte `v` is in BUF[2]. -/
def readComplete (s : State) (v : Byte) : State :=
  setPc .complete { readFinished (armedRead s) s.seq.reg v with
    cr.eventsTxDone := false, cr.eventsRxDone := false, cr.eventsStopped := false }

/-- A write transfer of the byte `w` at COMPLETE. -/
def writeComplete (s : State) (w : Byte) : State :=
  setPc .complete { writeFinished (armedWrite s w) s.seq.reg w with cr.eventsTxDone := false, cr.eventsStopped := false }

theorem transferPath_read {s : State} {v : Byte} (h : TransferReady s) (hx : s.seq.xfer = .rd)
    (hv : readAnswer s.seq.dev (addressedDevice s.seq.dev s.seq.reg s.dev) = .byte v) :
    TransferPath 6 s (readComplete s v) := by
  have ⟨hp, ⟨hflags, hidle⟩, hsize, hen, hlimit, hw⟩ := h
  have hrun : (armedRead s).cr.eventsStopped = false := ((flagsClear_iff s).1 hflags).2.2
  have heng := engPath_read (s := armedRead s) (reg := s.seq.reg)
    ⟨hen, rfl, hw, hsize, memRead_bufWrite_same s.buf 0 s.seq.reg, rfl, rfl, rfl, rfl, rfl, rfl, rfl⟩ hv
  rw [hrun] at heng
  exact ⟨_, _, path_armedRead h hx, heng.path rfl hlimit, path_checkedRead rfl rfl rfl hx rfl rfl⟩

theorem transferPath_write {s : State} {w : Byte} (h : TransferReady s) (hx : s.seq.xfer = .wr)
    (hw : wdata s.seq = .next w) : TransferPath 4 s (writeComplete s w) := by
  have ⟨hp, ⟨hflags, hidle⟩, hsize, hen, hlimit, hbehaved⟩ := h
  have hrun : (armedWrite s w).cr.eventsStopped = false := ((flagsClear_iff s).1 hflags).2.2
  have hreg : bufByte (armedWrite s w) 0 = some s.seq.reg :=
    (memRead_memWrite_other _ _ 1 0 w (by decide)).trans (memRead_bufWrite_same s.buf 0 s.seq.reg)
  have heng := engPath_write (s := armedWrite s w) (reg := s.seq.reg) (data := w)
    ⟨hen, rfl, hbehaved, hsize, hreg, memRead_bufWrite_same _ 1 w, rfl, rfl, rfl, rfl⟩
  rw [hrun] at heng
  exact ⟨_, _, path_armedWrite h hx hw, heng.path rfl hlimit, path_checkedWrite rfl rfl rfl hx rfl⟩

/-! ### COMPLETE -/

/-- COMPLETE of REG_READ responds with the byte (R159). -/
theorem moves_complete_regRead {s : State} {v : Byte} (hsize : 3 ≤ s.par.bufSize) (hx : s.seq.xfer = .rd)
    (hop : s.seq.op = 0x03) :
    Moves .seq (readComplete s v) (endCommand v { readComplete s v with seq.tmp := v }) :=
  moves_seq rfl (engEnabled_of_idle rfl) fun e => (seqStep_completeRd { readComplete s v with env := e } rfl hx).trans <|
    completeRd_respond (bufRead_next.2 ⟨show 2 < s.par.bufSize by omega, memRead_bufWrite_same _ 2 v⟩) hop

/-- COMPLETE of REG_WRITE_MASK's read half begins the write half (R159). -/
theorem moves_complete_readHalf {s : State} {v : Byte} (hsize : 3 ≤ s.par.bufSize) (hx : s.seq.xfer = .rd)
    (hop : s.seq.op = 0x05) :
    Moves .seq (readComplete s v) { readComplete s v with seq.tmp := v, seq.xfer := .wr, seq.pc := .setup } :=
  moves_seq rfl (engEnabled_of_idle rfl) fun e => (seqStep_completeRd { readComplete s v with env := e } rfl hx).trans <|
    completeRd_beginWrite (bufRead_next.2 ⟨show 2 < s.par.bufSize by omega, memRead_bufWrite_same _ 2 v⟩) hop

/-- COMPLETE of a write responds 0x00 (R160). -/
theorem moves_complete_write {s : State} {w : Byte} (hx : s.seq.xfer = .wr) :
    Moves .seq (writeComplete s w) (endCommand 0x00 (writeComplete s w)) :=
  moves_seq rfl (engEnabled_of_idle rfl) fun e => seqStep_completeWr { writeComplete s w with env := e } rfl hx

end Sys2Proof.Machine
end

section
/-! PROOF. The commands' completion along a schedule with any interleaving of polls and engine steps (R161, R208). -/

namespace Sys2Proof.Machine

/-! ### Paths along a schedule -/

/-- The state with the schedule's turns still to come, and the count of draws. -/
def onTurns (l : List Turn) (n : Nat) (s : State) : State := { s with env := { sched := l, draws := n } }

theorem onTurns_self {l : List Turn} {n : Nat} {s : State} (hsched : s.env.sched = l) (hdraws : s.env.draws = n) :
    onTurns l n s = s := by
  rw [onTurns, ← hsched, ← hdraws]

section
variable (rest : List Turn) (n : Nat)

theorem step_onTurns {a : Agent} {s t : State} (h : Moves a s t) :
    step (onTurns (.agent a :: rest) n s) = .next (onTurns rest n t) :=
  (step_turn (onTurns (.agent a :: rest) n s) a rest rfl).trans (h.2.1 _)

/-- A turn of the sequencer while the engine moves is a poll that changes nothing. -/
theorem step_onTurns_poll {s t : State} (h : Moves .eng s t) :
    step (onTurns (.agent .seq :: rest) n s) = .next (onTurns rest n s) :=
  (step_turn (onTurns (.agent .seq :: rest) n s) .seq rest rfl).trans (h.2.2 .seq nofun nofun _)

theorem run_path {l : List Agent} {s t : State} (h : Path l s t) :
    Sys2Proof.core.run l.length (onTurns (l.map .agent ++ rest) n s) = .next (onTurns rest n t) := by
  induction h with
  | nil s => rfl
  | cons hmove _ ih => exact (core_run_next (step_onTurns _ n hmove.1)).trans ih

/-- Along an interleaving the polls change nothing, so the engine's moves but the last are made (R208). -/
theorem run_interleaving {l : List Turn} {k : Nat} {s t : State} (hl : Interleaving l k)
    (h : Path (List.replicate (k + 1) .eng) s t) :
    ∃ u, Sys2Proof.core.run l.length (onTurns (l ++ rest) n s) = .next (onTurns rest n u) ∧ Path [.eng] u t := by
  induction l generalizing k s with
  | nil =>
    obtain ⟨_, hcount⟩ := hl
    cases hcount
    exact ⟨s, rfl, h⟩
  | cons turn l ih =>
    obtain ⟨hturns, hcount⟩ := hl
    have hturns' : ∀ t ∈ l, t = .agent .seq ∨ t = .agent .eng := fun t ht => hturns t (List.mem_cons_of_mem _ ht)
    cases h with
    | cons hmove hpath =>
      rcases hturns turn List.mem_cons_self with rfl | rfl
      · rw [List.count_cons_of_ne (by decide)] at hcount
        obtain ⟨u, hrun, hlast⟩ := ih ⟨hturns', hcount⟩ (.cons hmove hpath)
        exact ⟨u, (core_run_next (step_onTurns_poll _ n hmove.1)).trans hrun, hlast⟩
      · rw [List.count_cons_self] at hcount
        subst hcount
        obtain ⟨u, hrun, hlast⟩ := ih ⟨hturns', rfl⟩ hpath
        exact ⟨u, (core_run_next (step_onTurns _ n hmove.1)).trans hrun, hlast⟩

/-- A transfer and the step of COMPLETE along the transfer's turns (R161). -/
theorem run_transfer {l : List Turn} {k : Nat} {s t u : State} (hl : Interleaving l k) (h : TransferPath k s t)
    (hcomplete : Moves .seq t u) :
    Sys2Proof.core.run (transferTurns l).length (onTurns (transferTurns l ++ rest) n s) = .next (onTurns rest n u) := by
  obtain ⟨armed, finished, hsetup, heng, hcheck⟩ := h
  obtain ⟨last, hpolls, hlast⟩ := run_interleaving (.agent .eng :: (seqTurns 4 ++ rest)) n hl heng
  have hturns : transferTurns l ++ rest =
      [Agent.seq, .seq].map .agent ++ (l ++ (.agent .eng :: (seqTurns 4 ++ rest))) := by
    simp [transferTurns, seqTurns]
  have hlength : (transferTurns l).length = 2 + (l.length + (1 + (3 + 1))) := by
    simp [transferTurns, seqTurns]
    omega
  rw [hturns, hlength]
  exact (core_run_add (run_path _ n hsetup)).trans <| (core_run_add hpolls).trans <|
    (core_run_add (run_path _ n hlast)).trans <| (core_run_add (run_path (.agent .seq :: rest) n hcheck)).trans <|
    core_run_next (step_onTurns rest n hcomplete)

end

/-! ### The simulated device after a transfer -/

section
variable {d : Device} {a : DevAddr} (h : PlainSimdev d a) (reg : Byte)
include h

/-- A read leaves of the plain device its pointer at the register, and asks four questions (R80). -/
theorem PlainSimdev.addressed : addressedDevice a reg d = { d with simPtr := reg, asked := d.asked + 3 } := by
  rw [addressedDevice, ackedByte_of_plainSimdev h.count, if_pos rfl]
  rfl

theorem PlainSimdev.read : readAnswer a (addressedDevice a reg d) = .byte (storeByte d reg) := by
  have hplain : PlainSimdev (addressedDevice a reg d) a := by rw [h.addressed]; exact h
  rw [readAnswer_of_plainSimdev hplain, h.addressed]
  rfl

/-- A write leaves of the plain device its pointer at the register and the byte stored there (R80). -/
theorem PlainSimdev.written (data : Byte) :
    writtenDevice a reg data d = simStoreByte data { d with simPtr := reg, asked := d.asked + 3 } := by
  have hplain : PlainSimdev (simSetPtr reg (countQuestion (countQuestion d))) a := h
  rw [writtenDevice, ackedByte_of_plainSimdev h.count, if_pos rfl, ackedByte_of_plainSimdev hplain, if_neg (by decide)]
  rfl

end

/-- A completed read leaves the plain device plain, and its store as it was (R80). -/
theorem PlainSimdev.read_store {d : Device} {a : DevAddr} (h : PlainSimdev d a) (reg : Byte) :
    PlainSimdev (countQuestion (addressedDevice a reg d)) a ∧ (countQuestion (addressedDevice a reg d)).simPtr = reg ∧
      (∀ r, storeByte (countQuestion (addressedDevice a reg d)) r = storeByte d r) ∧
      (countQuestion (addressedDevice a reg d)).simStore = d.simStore := by
  rw [h.addressed]
  exact ⟨h, rfl, fun _ => rfl, rfl⟩

/-- What a completed write leaves of the plain device's store (R80). -/
theorem PlainSimdev.written_store {d : Device} {a : DevAddr} (h : PlainSimdev d a) (reg data : Byte)
    (hwf : Memory.wf storeUnlisted 256 d.simStore = true) :
    (writtenDevice a reg data d).simPtr = reg ∧ storeByte (writtenDevice a reg data d) reg = data ∧
      ∀ r, r ≠ reg → storeByte (writtenDevice a reg data d) r = storeByte d r := by
  have hplain : PlainSimdev { d with simPtr := reg, asked := d.asked + 3 } a := h
  rw [h.written]
  exact ⟨rfl, hplain.storeByte_same hwf data, fun r hr => storeByte_simStoreByte_other data _ hr⟩

/-! ### The statements -/

/-- A command taken at IDLE of a state of the invariant begins a transfer. -/
theorem transferReady_latch {s : State} {dev : DevAddr} (hi : Inv s) (hp : s.seq.pc = .idle) (hen : s.cr.enable = true)
    (hlimit : s.par.pollLimit = none) (hdev : s.dev.WellBehaved dev) (op reg mask data : Byte) (xfer : Xfer) :
    TransferReady (latchTransfer op dev reg mask data xfer s) := by
  obtain ⟨hwf, _, _, _, hphase⟩ := hi
  exact ⟨rfl, (phaseCoherent_idle hp).1 hphase, Params.wf_bufSize hwf, hen, hlimit, hdev⟩

theorem Inv.fault_of_idle {s : State} (hi : Inv s) (hp : s.seq.pc = .idle) : s.seq.fault = false := by
  obtain ⟨_, _, ⟨hfatal, _⟩, _⟩ := hi
  simpa [hp] using hfatal

/-- Settles O13: the read's path along the schedule, then COMPLETE; the device answers the stored byte. -/
theorem regReadCompletes : Obligations.RegReadCompletes := by
  unfold Obligations.RegReadCompletes
  intro dev reg s l rest hi hp hen hlimit hplain hl hsched
  have hready := transferReady_latch hi hp hen hlimit hplain.wellBehaved 0x03 reg 0x00 0x00 .rd
  have ⟨_, _, hsize, _⟩ := hready
  have hpath := transferPath_read hready rfl (hplain.read reg)
  have hrun := run_transfer rest s.env.draws hl hpath (moves_complete_regRead hsize rfl rfl)
  rw [onTurns_self (n := s.env.draws) (s := latchTransfer 0x03 dev reg 0x00 0x00 .rd s) hsched rfl] at hrun
  obtain ⟨_, hptr, hkept, _⟩ := hplain.read_store reg
  refine ⟨_, _, exec_regRead_idle dev reg s hp, hrun,
    ⟨rfl, hi.fault_of_idle hp, rfl, rfl, rfl, rfl, rfl, rfl, rfl, rfl, rfl, rfl, rfl⟩, ⟨rfl, rfl, rfl⟩, rfl, rfl, hptr, hkept, rfl,
    rfl, ?_, memRead_bufWrite_same _ 2 _, fun a ha0 ha2 => ?_⟩
  · exact (memRead_memWrite_other _ _ 2 0 _ (by decide)).trans (memRead_bufWrite_same s.buf 0 reg)
  · exact (memRead_memWrite_other _ _ 2 a _ ha2).trans (memRead_memWrite_other _ _ 0 a _ ha0)

/-- Settles O14: the write's path along the schedule, then COMPLETE; the device stores the byte at its pointer. -/
theorem regWriteCompletes : Obligations.RegWriteCompletes := by
  unfold Obligations.RegWriteCompletes
  intro dev reg data s l rest hi hp hen hlimit hplain hl hsched
  have hready := transferReady_latch hi hp hen hlimit hplain.wellBehaved 0x04 reg 0x00 data .wr
  have hpath := transferPath_write hready rfl (wdata_next.2 (.inl ⟨rfl, rfl⟩))
  have hrun := run_transfer rest s.env.draws hl hpath (moves_complete_write rfl)
  rw [onTurns_self (n := s.env.draws) (s := latchTransfer 0x04 dev reg 0x00 data .wr s) hsched rfl] at hrun
  have ⟨_, ⟨_, hstore, _⟩, _⟩ := hi
  have ⟨_, ⟨hflags, _⟩, _⟩ := hready
  obtain ⟨_, hrx, _⟩ := (flagsClear_iff s).1 hflags
  obtain ⟨hptr, hstored, hother⟩ := hplain.written_store reg data hstore
  refine ⟨_, _, exec_regWrite_idle dev reg data s hp, hrun,
    ⟨rfl, hi.fault_of_idle hp, rfl, ?_, rfl, rfl, rfl, rfl, rfl, rfl, rfl, rfl, rfl⟩, ⟨rfl, rfl, rfl⟩, rfl, rfl, hptr, hstored,
    hother, rfl, rfl, rfl, rfl, ?_, memRead_bufWrite_same _ 1 data, fun a ha0 ha1 => ?_⟩
  · simp [flagsClear, writeComplete, writeFinished, armedWrite, onTurns, hrx]
  · exact (memRead_memWrite_other _ _ 1 0 data (by decide)).trans (memRead_bufWrite_same s.buf 0 reg)
  · exact (memRead_memWrite_other _ _ 1 a data ha1).trans (memRead_memWrite_other _ _ 0 a _ ha0)

/-- REG_WRITE_MASK between its halves: the byte read is in TMP, and the write transfer begins (R152, R159). -/
def writeHalf (s : State) (v : Byte) : State :=
  { readComplete s v with seq.tmp := v, seq.xfer := .wr, seq.pc := .setup }

theorem transferReady_writeHalf {s : State} {v : Byte} (h : TransferReady s)
    (hw : (countQuestion (addressedDevice s.seq.dev s.seq.reg s.dev)).WellBehaved s.seq.dev) :
    TransferReady (writeHalf s v) := by
  obtain ⟨_, _, hsize, hen, hlimit, _⟩ := h
  exact ⟨rfl, ⟨rfl, rfl⟩, hsize, hen, hlimit, hw⟩

theorem wdata_writeHalf {s : State} (v : Byte) (hop : s.seq.op = 0x05) :
    wdata (writeHalf s v).seq = .next (merge v s.seq.mask s.seq.data) := wdata_next.2 (.inr ⟨hop, rfl⟩)

/-- Settles O15: the read's path and then the write's, of the byte merged from what the read answered. -/
theorem regWriteMaskCompletes : Obligations.RegWriteMaskCompletes := by
  unfold Obligations.RegWriteMaskCompletes
  intro dev reg mask data s l l' rest hi hp hen hlimit hplain hl hl' hsched
  have hready := transferReady_latch hi hp hen hlimit hplain.wellBehaved 0x05 reg mask data .rd
  have ⟨_, _, hsize, _⟩ := hready
  have hpath := transferPath_read hready rfl (hplain.read reg)
  have hread := run_transfer (transferTurns l' ++ rest) s.env.draws hl hpath
    (moves_complete_readHalf hsize rfl rfl)
  rw [onTurns_self (n := s.env.draws) (s := latchTransfer 0x05 dev reg mask data .rd s) hsched rfl] at hread
  obtain ⟨hplain', _, hkept, hstoreKept⟩ := hplain.read_store reg
  have hready' := transferReady_writeHalf (v := storeByte s.dev reg) hready hplain'.wellBehaved
  have hwrite := run_transfer rest s.env.draws hl' (transferPath_write hready' rfl (wdata_writeHalf _ rfl))
    (moves_complete_write rfl)
  have ⟨_, ⟨_, hstore, _⟩, _⟩ := hi
  obtain ⟨hptr, hstored, hother⟩ := hplain'.written_store reg (merge (storeByte s.dev reg) mask data) (hstoreKept ▸ hstore)
  refine ⟨_, _, exec_regWriteMask_idle dev reg mask data s hp, (core_run_add hread).trans hwrite,
    ⟨rfl, hi.fault_of_idle hp, rfl, rfl, rfl, rfl, rfl, rfl, rfl, rfl, rfl, rfl, rfl⟩, ⟨rfl, rfl, rfl⟩, rfl, rfl, hptr, hstored,
    fun r hr => (hother r hr).trans (hkept r), ?_, memRead_bufWrite_same _ 1 _, ?_, fun a ha => ?_⟩
  · exact (memRead_memWrite_other _ _ 1 0 _ (by decide)).trans (memRead_bufWrite_same _ 0 reg)
  · exact (memRead_memWrite_other _ _ 1 2 _ (by decide)).trans <|
      (memRead_memWrite_other _ _ 0 2 _ (by decide)).trans (memRead_bufWrite_same _ 2 _)
  · exact (memRead_memWrite_other _ _ 1 a _ (by omega)).trans <| (memRead_memWrite_other _ _ 0 a _ (by omega)).trans <|
      (memRead_memWrite_other _ _ 2 a _ (by omega)).trans (memRead_memWrite_other _ _ 0 a _ (by omega))

end Sys2Proof.Machine
end

section
/-! PROOF. Weakly fair runs (R12, R208): an enabled step of the engine is taken, and a transfer's path is followed to its
end, for only one of SEQ and ENG moves the block and HOST waits. -/

namespace Sys2Proof.Machine

/-! ### An enabled step of the engine -/

/-- A step that is no reset brings no reset closer. -/
theorem step_keeps_noReset {s t : State} (hr : noReset s) (h : step s = .next t) : noReset t := by
  rcases step_noReset_cases hr with ⟨e, a, hstep, _, hr'⟩ | ⟨hstep, _⟩ <;> rw [hstep] at h
  · have henv : t.env = e := (agentStep_env_par h).1
    rwa [noReset, henv]
  · cases h; exact hr

theorem run_keeps_inv {r : Nat → State} (hrun : IsRun r) (hi : Inv (r 0)) (hr : noReset (r 0)) (n : Nat) :
    Inv (r n) ∧ noReset (r n) := by
  induction n with
  | zero => exact ⟨hi, hr⟩
  | succ n ih => exact ⟨inv_step ih.1 (hrun n), step_keeps_noReset ih.2 (hrun n)⟩

/-- Only the engine disables its step: it is enabled in POLL or after a fatal halt, where the sequencer leaves it. -/
theorem agentStep_keeps_engEnabled {a : Agent} {s t : State} (hi : Inv s) (ha : a ≠ .eng) (he : engEnabled s = true)
    (h : agentStep a s = .next t) : engEnabled t = true := by
  have hg : s.eng ≠ .idle := fun hidle => by simp [engEnabled_of_idle hidle] at he
  cases a with
  | host =>
    cases h
    obtain ⟨v, p, u, e⟩ := hostStep_eq s
    rw [e]
    exact he
  | seq =>
    rcases (hi.engine_active hg).1 with hp | hp
    · obtain ⟨_, rfl⟩ | ⟨_, rfl⟩ | ⟨_, rfl⟩ := seqStep_poll_next hp h <;> exact he
    · cases (seqStep_fatal s hp).symm.trans h
      exact he
  | eng => exact absurd rfl ha

theorem step_keeps_engEnabled {s t : State} (hi : Inv s) (hr : noReset s) (hm : mover s ≠ some .eng)
    (he : engEnabled s = true) (h : step s = .next t) : engEnabled t = true := by
  rcases step_noReset_cases hr with ⟨e, a, hstep, hmover, _⟩ | ⟨hstep, _⟩ <;> rw [hstep] at h
  · have ha : a ≠ .eng := fun ha => hm (hmover.trans (congrArg some ha))
    exact agentStep_keeps_engEnabled (s := { s with env := e }) hi ha he h
  · cases h; exact he

/-- Settles O59: the step stays enabled until the engine moves, and fairness makes it move. -/
theorem fairRunTakesEngineStep : Obligations.FairRunTakesEngineStep := by
  unfold Obligations.FairRunTakesEngineStep
  intro r n hrun hfair hi hr he
  by_cases hm : mover (r n) = some .eng
  · exact ⟨n, Nat.le_refl n, hm, he⟩
  obtain ⟨hin, hrn⟩ := run_keeps_inv hrun hi hr n
  refine fair_leads hrun hfair (fun s => Inv s ∧ noReset s ∧ engEnabled s = true ∧ mover s ≠ some .eng)
    (fun s => mover s = some .eng ∧ engEnabled s = true) .eng (fun _ ⟨_, _, he, _⟩ => he) ?_ n ⟨hin, hrn, he, hm⟩
  rintro s t ⟨his, hrs, hes, hms⟩ hstep
  have het := step_keeps_engEnabled his hrs hms hes hstep
  by_cases hmt : mover t = some .eng
  · exact .inl ⟨hmt, het⟩
  · exact .inr ⟨⟨inv_step his hstep, step_keeps_noReset hrs hstep, het, hmt⟩, hms⟩

/-! ### Paths along a fair run -/

/-- A state is `s` but for the schedule, and no reset is due. -/
abbrev AtBlock (x s : State) : Prop := (∃ e, x = { s with env := e }) ∧ noReset x

theorem AtBlock.refl {s : State} (h : noReset s) : AtBlock s s := ⟨⟨s.env, rfl⟩, h⟩

theorem mem_enabledAgents {s : State} {a : Agent} (h : agentEnabled s a = true) : a ∈ enabledAgents s :=
  List.mem_filter.2 ⟨by cases a <;> decide, h⟩

theorem hostStep_disabled {s : State} (h : hostEnabled s = false) : hostStep s = s := by simp [hostStep, h]

/-- HOST has nothing to do: no response to take and no act left. -/
theorem hostEnabled_of_quiet {s : State} (hresp : s.seq.respValid = false) (htodo : s.host.todo = []) :
    hostEnabled s = false := by simp [hostEnabled, hresp, htodo]

section
variable {r : Nat → State} (hrun : IsRun r) (hfair : WeaklyFair r)
include hrun hfair

/-- A move that is HOST's, or is made while HOST has none, is made along a fair run. -/
theorem fair_moves {a : Agent} {s t : State} {n : Nat} (h : Moves a s t) (hhost : a = .host ∨ hostEnabled s = false)
    (hn : AtBlock (r n) s) : ∃ m, n ≤ m ∧ AtBlock (r m) t := by
  obtain ⟨henabled, hstep, hothers⟩ := h
  refine fair_leads hrun hfair (AtBlock · s) (AtBlock · t) a ?_ ?_ n hn
  · rintro _ ⟨⟨e, rfl⟩, _⟩
    cases a <;> exact henabled
  · rintro _ u ⟨⟨e, rfl⟩, hr⟩ hu
    rcases step_noReset_cases hr with ⟨e', b, hb, hmover, hr'⟩ | ⟨_, _, hnone⟩
    · rw [hb] at hu
      by_cases hba : b = a
      · subst hba
        cases (hstep e').symm.trans hu
        exact .inl ⟨⟨e', rfl⟩, hr'⟩
      · refine .inr ⟨?_, fun hma => hba (Option.some.inj (hmover.symm.trans hma))⟩
        by_cases hbh : b = .host
        · subst hbh
          have hquiet : hostEnabled s = false := hhost.resolve_left fun ha => hba ha.symm
          cases (congrArg Host.Outcome.next (hostStep_disabled (s := { s with env := e' }) hquiet)).symm.trans hu
          exact ⟨⟨e', rfl⟩, hr'⟩
        · cases (hothers b hbh hba e').symm.trans hu
          exact ⟨⟨e', rfl⟩, hr'⟩
    · have hmem : a ∈ enabledAgents { s with env := e } := mem_enabledAgents (by cases a <;> exact henabled)
      simp [hnone] at hmem

theorem fair_path {l : List Agent} {s t : State} {n : Nat} (h : Path l s t) (hresp : s.seq.respValid = false)
    (htodo : s.host.todo = []) (hn : AtBlock (r n) s) : ∃ m, n ≤ m ∧ AtBlock (r m) t := by
  induction h generalizing n with
  | nil s => exact ⟨n, Nat.le_refl n, hn⟩
  | cons hmove _ ih =>
    obtain ⟨hmoves, _, hhost, hvalid⟩ := hmove
    obtain ⟨m, hnm, hm⟩ := fair_moves hrun hfair hmoves (.inr (hostEnabled_of_quiet hresp htodo)) hn
    obtain ⟨m', hmm', hm'⟩ := ih (hvalid.trans hresp) (hhost ▸ htodo) hm
    exact ⟨m', hnm.trans hmm', hm'⟩

end

/-! ### The end of the run -/

/-- HOST waits for the response to its last command. -/
abbrev HostWaits (s : State) : Prop :=
  s.port = none ∧ s.seq.respValid = false ∧ s.host.todo = [] ∧ s.host.halted = false

/-- The run has ended with one response more than in `s`, which HOST has taken (R333). -/
abbrev Completed (s x : State) (d : Byte) : Prop :=
  endOfRun x ∧ x.seq.resps = s.seq.resps ++ [d] ∧ x.host.lastResp = d

/-- HOST takes a response while the block is idle. -/
theorem moves_takeResponse {s : State} (hp : s.seq.pc = .idle) (hport : s.port = none) (hidle : s.eng = .idle)
    (hhalted : s.host.halted = false) (hresp : s.seq.respValid = true) : Moves .host s (takeResponse s) := by
  refine ⟨by simp [agentEnabled, hostEnabled, hhalted, hresp], fun e => ?_, fun b hhost _ e => ?_⟩
  · exact congrArg Host.Outcome.next (hostStep_takes (s := { s with env := e }) hhalted hresp)
  · cases b with
    | host => exact absurd rfl hhost
    | seq => exact seqStep_idle_none { s with env := e } hp hport
    | eng => exact engStep_disabled { s with env := e } (engEnabled_of_idle hidle)

section
variable {r : Nat → State} (hrun : IsRun r) (hfair : WeaklyFair r) {s : State} (hwaits : HostWaits s) {n : Nat}
  (hn : AtBlock (r n) s)
include hrun hfair hwaits hn

/-- COMPLETE responds, and HOST takes the response. -/
theorem fair_response {t u : State} {k : Nat} (hpath : TransferPath k s t) (hcomplete : Moves .seq t u)
    (hquiet : t.seq.respValid = false ∧ t.host.todo = []) (htake : Moves .host u (takeResponse u)) :
    ∃ m, AtBlock (r m) (takeResponse u) := by
  obtain ⟨_, hresp, htodo, _⟩ := hwaits
  obtain ⟨_, _, h₁⟩ := fair_path hrun hfair hpath.path hresp htodo hn
  obtain ⟨_, _, h₂⟩ := fair_moves hrun hfair hcomplete (.inr (hostEnabled_of_quiet hquiet.1 hquiet.2)) h₁
  obtain ⟨m, _, h₃⟩ := fair_moves hrun hfair htake (.inl rfl) h₂
  exact ⟨m, h₃⟩

variable (hready : TransferReady s) (hfault : s.seq.fault = false)
include hready hfault

/-- A write transfer ends with the response 0x00. -/
theorem fair_write {w : Byte} (hx : s.seq.xfer = .wr) (hw : wdata s.seq = .next w) :
    ∃ m, Completed s (r m) 0x00 := by
  have ⟨_, ⟨hflags, _⟩, _⟩ := hready
  obtain ⟨_, hrx, _⟩ := (flagsClear_iff s).1 hflags
  have ⟨hport, hresp, htodo, hhalted⟩ := hwaits
  obtain ⟨m, ⟨e, hm⟩, _⟩ := fair_response hrun hfair hwaits hn (transferPath_write hready hx hw)
    (moves_complete_write hx) ⟨hresp, htodo⟩ (moves_takeResponse rfl hport rfl hhalted rfl)
  refine ⟨m, ?_⟩
  rw [hm]
  exact ⟨⟨rfl, hfault, rfl, by simp [flagsClear, takeResponse, writeComplete, writeFinished, armedWrite, hrx], htodo, rfl,
    hport, rfl⟩, rfl, rfl⟩

/-- The read transfer of REG_READ ends with the byte read. -/
theorem fair_regRead (hx : s.seq.xfer = .rd) (hop : s.seq.op = 0x03) : ∃ m d, Completed s (r m) d := by
  have ⟨_, _, hsize, _, _, hw⟩ := hready
  have ⟨hport, hresp, htodo, hhalted⟩ := hwaits
  obtain ⟨_, v, hv⟩ := addressedDevice_answers (s := armedRead s) s.seq.reg hw
  obtain ⟨m, ⟨e, hm⟩, _⟩ := fair_response hrun hfair hwaits hn (transferPath_read hready hx hv)
    (moves_complete_regRead hsize hx hop) ⟨hresp, htodo⟩ (moves_takeResponse rfl hport rfl hhalted rfl)
  refine ⟨m, v, ?_⟩
  rw [hm]
  exact ⟨⟨rfl, hfault, rfl, rfl, htodo, rfl, hport, rfl⟩, rfl, rfl⟩

/-- The two transfers of REG_WRITE_MASK end with the response 0x00 (R152). -/
theorem fair_regWriteMask (hx : s.seq.xfer = .rd) (hop : s.seq.op = 0x05) : ∃ m, Completed s (r m) 0x00 := by
  have ⟨_, _, hsize, _, _, hw⟩ := hready
  have ⟨hport, hresp, htodo, hhalted⟩ := hwaits
  obtain ⟨hbehaved, v, hv⟩ := addressedDevice_answers (s := armedRead s) s.seq.reg hw
  obtain ⟨_, _, h₁⟩ := fair_path hrun hfair (transferPath_read hready hx hv).path hresp htodo hn
  obtain ⟨_, _, h₂⟩ := fair_moves hrun hfair (moves_complete_readHalf hsize hx hop)
    (.inr (hostEnabled_of_quiet hresp htodo)) h₁
  exact fair_write hrun hfair (s := writeHalf s v) hwaits h₂ (transferReady_writeHalf hready hbehaved.count) hfault rfl
    (wdata_writeHalf v hop)

end

/-- Settles O60, by the transfer and the opcode: one transfer, or the read half and then the write half. -/
theorem fairRunCompletesTransfer : Obligations.FairRunCompletesTransfer := by
  unfold Obligations.FairRunCompletesTransfer
  intro r hrun hfair hi hr hp hen hlimit hw hport hresp htodo _ hhalted
  have ⟨hwf, _, ⟨hfatal, _⟩, _, hphase⟩ := hi
  obtain ⟨hclean, hop⟩ := (phaseCoherent_setup hp).1 hphase
  have hfault : (r 0).seq.fault = false := by simpa [hp] using hfatal
  have hready : TransferReady (r 0) := ⟨hp, hclean, Params.wf_bufSize hwf, hen, hlimit, hw⟩
  have hwaits : HostWaits (r 0) := ⟨hport, hresp, htodo, hhalted⟩
  have hstart : AtBlock (r 0) (r 0) := .refl hr
  cases hx : (r 0).seq.xfer with
  | rd =>
    rcases hop.1 hx with hread | hmask
    · obtain ⟨m, d, hend, hresps, hlast⟩ := fair_regRead hrun hfair hwaits hstart hready hfault hx hread
      exact ⟨m, d, hend, hresps, hlast, fun hne => absurd hread hne⟩
    · obtain ⟨m, hend, hresps, hlast⟩ := fair_regWriteMask hrun hfair hwaits hstart hready hfault hx hmask
      exact ⟨m, _, hend, hresps, hlast, fun _ => rfl⟩
  | wr =>
    obtain ⟨w, hdata⟩ := wdata_of_opFits hop hx
    obtain ⟨m, hend, hresps, hlast⟩ := fair_write hrun hfair hwaits hstart hready hfault hx hdata
    exact ⟨m, _, hend, hresps, hlast, fun _ => rfl⟩

end Sys2Proof.Machine
end
